-- ==== Sys2Proof/Word.lean ====
section
/-! DEFINITION. The bit-vector types of BFX: the 32-bit word (spec 00_scope R6, R8), the byte of the host's side of
the port (20_memory R55) and the 64-bit response value (30_encoding R82). -/

namespace Sys2Proof

/-- A 32-bit unsigned word: a command word, a data word, a word register (R6 `XLEN`, R21, R70). -/
abbrev Word := BitVec 32

/-- A byte of a header or of a serialised command stream (R55, R66). -/
abbrev Byte := BitVec 8

/-- A response value, `VLEN` = 64 bits (R6, R82). -/
abbrev Value := BitVec 64

end Sys2Proof
end

