-- ==== Sys2Proof/Config.lean ====
section
/-! DEFINITION. What the spec leaves to the implementation: the one OPEN parameter `NEG_DIV` (00_scope R6,
44_derived_properties R169) and the free values that stand for register contents the spec calls unspecified
(10_state R23, R35). -/

namespace Sys2Proof

/-- The two values of `NEG_DIV` (R169): how NSMP's last division rounds a negative dividend. -/
inductive NegDiv where
  /-- Toward zero, the spec's default. -/
  | trunc
  /-- Toward minus infinity. -/
  | floor
  deriving DecidableEq, Repr, Inhabited

/-- The parameter `NEG_DIV` of this machine (R6, R169; log 3). It has no body: a theorem that does not assume its
value holds for both. -/
opaque Config.negDiv : NegDiv

/-- The contents of a register bit field the spec calls unspecified (R23, R35; log 4, log 6). It has no body, so no
theorem knows a value of it; the argument is the model's counter `State.freeNext` and up. -/
opaque Config.freeWord : Nat → Word

end Sys2Proof
end

