-- ==== Sys2Proof/Syntax.lean ====
section
/-! DEFINITION. The seventeen commands of BFX, one constructor per row of spec/opcode_table.json (30_encoding R74), and
the field descriptor (R71). -/

namespace Sys2Proof

/-- A field descriptor `(word_index, bit_index, bit_length)`: 4, 5 and 8 bits (30_encoding R71, 10_state R25). -/
structure Descriptor where
  /-- `word_index`, 0 to 15. -/
  wi : BitVec 4
  /-- `bit_index`, 0 to 31. -/
  bi : BitVec 5
  /-- `bit_length`, 0 to 255. -/
  bl : BitVec 8
  deriving DecidableEq, Repr

/-- A BFX command (R74). LDW carries its inline data words (R80), `d[0]` first. -/
inductive Instr where
  /-- `LDW d[0], ..., d[n-1]`: load the word sequence (R110). -/
  | ldw (data : List Word)
  /-- `MKP wi, bi, bl`: make parser (R122). -/
  | mkp (wi : BitVec 4) (bi : BitVec 5) (bl : BitVec 8)
  /-- `EXT`: apply the parser (R123). -/
  | ext
  /-- `HDR`: construct the decoded header (R141). -/
  | hdr
  /-- `RDF f`: read raw field `f` (R142). -/
  | rdf (field : BitVec 4)
  /-- `BPS`: bits per sample (R161). -/
  | bps
  /-- `FLB`: frame length in bytes (R162). -/
  | flb
  /-- `PLB`: payload length in bytes (R163). -/
  | plb
  /-- `NCH`: number of channels (R164). -/
  | nch
  /-- `NSMP`: number of samples (R165). -/
  | nsmp
  /-- `STID`: station identifier (R166). -/
  | stid
  /-- `THID`: thread identifier (R167). -/
  | thid
  /-- `VER`: VDIF version (R168). -/
  | ver
  /-- `ISLEG`: legacy flag (R170). -/
  | isleg
  /-- `ISCPX`: complex flag (R171). -/
  | iscpx
  /-- `ISVAL`: frame-valid flag (R172). -/
  | isval
  /-- `RDST`: read the status view (R190). -/
  | rdst
  deriving DecidableEq, Repr

end Sys2Proof
end

