-- ==== Sys2Proof/WellFormed.lean ====
section
/-! DEFINITION. Which terms of `Instr` are commands: the legal operand ranges of the opcode map (30_encoding R74). -/

namespace Sys2Proof

/-- The legal-operand column of R74: LDW loads 0 to 8 words, RDF names field 0 to 11. Every other operand value of a
command is legal (MKP's geometry is checked when it executes, R78). -/
def Instr.wellFormed : Instr → Bool
  | .ldw data => decide (data.length ≤ 8)
  | .rdf field => decide (field.toNat ≤ 11)
  | .mkp _ _ _ => true
  | .ext => true
  | .hdr => true
  | .bps => true
  | .flb => true
  | .plb => true
  | .nch => true
  | .nsmp => true
  | .stid => true
  | .thid => true
  | .ver => true
  | .isleg => true
  | .iscpx => true
  | .isval => true
  | .rdst => true

end Sys2Proof
end

