-- ==== Sys2Proof/Decode.lean ====
section
/-! DEFINITION. The decoder of command words, total on every word and every list of words (30_encoding R70 to R81),
the encoder written from the same opcode map, the opcode map itself as rows of match and mask (R74), and the
byte order of the host's side of the port (20_memory R55, R66). -/

namespace Sys2Proof

/-! ### The fields of a command word (R70, R71) -/

/-- `OP`, bits 31:28 (R70). -/
def opField (c : Word) : BitVec 4 := c.extractLsb' 28 4

/-- `SEL`, bits 27:24 (R70). -/
def selField (c : Word) : BitVec 4 := c.extractLsb' 24 4

/-- `WI`, bits 19:16 (R71). -/
def wiField (c : Word) : BitVec 4 := c.extractLsb' 16 4

/-- `BI`, bits 12:8 (R71). -/
def biField (c : Word) : BitVec 5 := c.extractLsb' 8 5

/-- `BL`, bits 7:0 (R71). -/
def blField (c : Word) : BitVec 8 := c.extractLsb' 0 8

/-! ### The decoder (R76) -/

/-- What the command word alone says (R76, R80). -/
inductive Verdict where
  /-- A legal `LDW n`: the command word, then `n` data words. -/
  | load (n : Nat)
  /-- A complete one-word command. -/
  | single (i : Instr)
  /-- Not a command (R77). -/
  | illegal
  deriving DecidableEq, Repr

/-- The property command with selector `sel` (R74, opcode 6). -/
def decodeProperty (sel : BitVec 4) : Verdict :=
  if sel = 0 then .single .bps
  else if sel = 1 then .single .flb
  else if sel = 2 then .single .plb
  else if sel = 3 then .single .nch
  else if sel = 4 then .single .nsmp
  else if sel = 5 then .single .stid
  else if sel = 6 then .single .thid
  else if sel = 7 then .single .ver
  else if sel = 8 then .single .isleg
  else if sel = 9 then .single .iscpx
  else if sel = 10 then .single .isval
  else .illegal

/-- `decode(C)` of R76, case by case in the rule's order. -/
def decodeWord (c : Word) : Verdict :=
  if opField c = 0x1 then
    if c.extractLsb' 0 24 ≠ 0 ∨ 8 < (selField c).toNat then .illegal else .load (selField c).toNat
  else if opField c = 0x2 then
    if selField c ≠ 0 ∨ c.extractLsb' 20 4 ≠ 0 ∨ c.extractLsb' 13 3 ≠ 0 then .illegal
    else .single (.mkp (wiField c) (biField c) (blField c))
  else if opField c = 0x3 then
    if c.extractLsb' 0 28 ≠ 0 then .illegal else .single .ext
  else if opField c = 0x4 then
    if c.extractLsb' 0 28 ≠ 0 then .illegal else .single .hdr
  else if opField c = 0x5 then
    if c.extractLsb' 0 24 ≠ 0 ∨ 11 < (selField c).toNat then .illegal else .single (.rdf (selField c))
  else if opField c = 0x6 then
    if c.extractLsb' 0 24 ≠ 0 then .illegal else decodeProperty (selField c)
  else if opField c = 0x7 then
    if c.extractLsb' 0 28 ≠ 0 then .illegal else .single .rdst
  else .illegal

/-- What the head of a stream of words is (R80, R81). -/
inductive Decoded where
  /-- A command and the words after it. -/
  | command (i : Instr) (rest : List Word)
  /-- An illegal word, one word long, and the words after it (R77). -/
  | illegal (rest : List Word)
  /-- No complete command: no word at all, or an LDW whose data words have not all arrived (R81). -/
  | incomplete
  deriving DecidableEq, Repr

/-- The command at the head of a stream of words (R80): LDW takes its data words as they stand, undecoded; every other
command and every illegal word is one word long. -/
def decode : List Word → Decoded
  | [] => .incomplete
  | c :: rest =>
    match decodeWord c with
    | .illegal => .illegal rest
    | .single i => .command i rest
    | .load n => if n ≤ rest.length then .command (.ldw (rest.take n)) (rest.drop n) else .incomplete

/-! ### The encoder (R70 to R74) -/

/-- A command word of format Z or S: `OP`, `SEL`, zeros (R70, R72). -/
def selectorWord (op sel : BitVec 4) : Word := op ++ sel ++ 0#24

/-- MKP's command word, format M (R71, R72). -/
def descriptorWord (wi : BitVec 4) (bi : BitVec 5) (bl : BitVec 8) : Word :=
  0x2#4 ++ 0#4 ++ 0#4 ++ wi ++ 0#3 ++ bi ++ bl

/-- The words of a command, in stream order (R74, R80). -/
def encode : Instr → List Word
  | .ldw data => selectorWord 0x1 (BitVec.ofNat 4 data.length) :: data
  | .mkp wi bi bl => [descriptorWord wi bi bl]
  | .ext => [selectorWord 0x3 0]
  | .hdr => [selectorWord 0x4 0]
  | .rdf field => [selectorWord 0x5 field]
  | .bps => [selectorWord 0x6 0]
  | .flb => [selectorWord 0x6 1]
  | .plb => [selectorWord 0x6 2]
  | .nch => [selectorWord 0x6 3]
  | .nsmp => [selectorWord 0x6 4]
  | .stid => [selectorWord 0x6 5]
  | .thid => [selectorWord 0x6 6]
  | .ver => [selectorWord 0x6 7]
  | .isleg => [selectorWord 0x6 8]
  | .iscpx => [selectorWord 0x6 9]
  | .isval => [selectorWord 0x6 10]
  | .rdst => [selectorWord 0x7 0]

/-- The length of a command in words (R80). -/
def Instr.lengthWords : Instr → Nat
  | .ldw data => 1 + data.length
  | _ => 1

/-! ### The opcode map as a table (R74) -/

/-- One row of the opcode map: mnemonic, match, mask, and the largest legal value of `SEL` (15 where the mask fixes
`SEL` or the row has no selector operand). -/
structure OpcodeRow where
  mnemonic : String
  pattern : Word
  mask : Word
  selMax : Nat
  deriving DecidableEq, Repr

/-- The seventeen rows of R74, in the rule's order. -/
def opcodeRows : List OpcodeRow :=
  [⟨"LDW", 0x10000000, 0xF0FFFFFF, 8⟩, ⟨"MKP", 0x20000000, 0xFFF0E000, 15⟩, ⟨"EXT", 0x30000000, 0xFFFFFFFF, 15⟩,
   ⟨"HDR", 0x40000000, 0xFFFFFFFF, 15⟩, ⟨"RDF", 0x50000000, 0xF0FFFFFF, 11⟩, ⟨"BPS", 0x60000000, 0xFFFFFFFF, 15⟩,
   ⟨"FLB", 0x61000000, 0xFFFFFFFF, 15⟩, ⟨"PLB", 0x62000000, 0xFFFFFFFF, 15⟩, ⟨"NCH", 0x63000000, 0xFFFFFFFF, 15⟩,
   ⟨"NSMP", 0x64000000, 0xFFFFFFFF, 15⟩, ⟨"STID", 0x65000000, 0xFFFFFFFF, 15⟩, ⟨"THID", 0x66000000, 0xFFFFFFFF, 15⟩,
   ⟨"VER", 0x67000000, 0xFFFFFFFF, 15⟩, ⟨"ISLEG", 0x68000000, 0xFFFFFFFF, 15⟩, ⟨"ISCPX", 0x69000000, 0xFFFFFFFF, 15⟩,
   ⟨"ISVAL", 0x6A000000, 0xFFFFFFFF, 15⟩, ⟨"RDST", 0x70000000, 0xFFFFFFFF, 15⟩]

/-- "A word `C` selects the row when `C & mask = match` and the operand is in the legal range" (R74). -/
def OpcodeRow.selects (r : OpcodeRow) (c : Word) : Bool :=
  decide (c &&& r.mask = r.pattern) && decide ((selField c).toNat ≤ r.selMax)

/-- The mnemonic of a command (R74, R75). -/
def Instr.mnemonic : Instr → String
  | .ldw _ => "LDW"
  | .mkp _ _ _ => "MKP"
  | .ext => "EXT"
  | .hdr => "HDR"
  | .rdf _ => "RDF"
  | .bps => "BPS"
  | .flb => "FLB"
  | .plb => "PLB"
  | .nch => "NCH"
  | .nsmp => "NSMP"
  | .stid => "STID"
  | .thid => "THID"
  | .ver => "VER"
  | .isleg => "ISLEG"
  | .iscpx => "ISCPX"
  | .isval => "ISVAL"
  | .rdst => "RDST"

/-- The mnemonic a verdict stands for; none for an illegal word. -/
def Verdict.mnemonic : Verdict → Option String
  | .load _ => some "LDW"
  | .single i => some i.mnemonic
  | .illegal => none

/-! ### Words numbered as one number, and bytes -/

/-- The longest command, `LDW` of eight words, is nine words long (R80). -/
def maxCommandWords : Nat := 9

/-- The words of a number whose bit 0 is the least significant bit of the first word, `count` of them. -/
def wordsOfNat (count w : Nat) : List Word :=
  (List.range count).map fun j => BitVec.ofNat 32 (w / 2 ^ (32 * j))

/-- The instruction the decoder reads from an instruction whose bits are `w`, every bit from `nbits` up being 0 up to
the longest command; none where the decoder refuses. -/
def decodeTableWord (nbits w : Nat) : Option Instr :=
  match decode (wordsOfNat maxCommandWords (w % 2 ^ nbits)) with
  | .command i _ => some i
  | .illegal _ => none
  | .incomplete => none

/-- The word of four bytes in file order, little-endian (R55). -/
def wordOfBytes (b0 b1 b2 b3 : Byte) : Word := b3 ++ b2 ++ b1 ++ b0

/-- The words of a byte stream, four bytes a word (R55, R66), and the bytes of a last word that is not complete
(log 19). -/
def wordsOfBytes : List Byte → List Word × List Byte
  | b0 :: b1 :: b2 :: b3 :: rest => (wordOfBytes b0 b1 b2 b3 :: (wordsOfBytes rest).1, (wordsOfBytes rest).2)
  | leftover => ([], leftover)

end Sys2Proof
end

