-- ==== Sys2Proof/Machine/State.lean ====
section
/-! DEFINITION. The state of one BFX instance (10_state R20 to R31), the responses (30_encoding R82 to R84), the five
exceptions (60_exceptions R200 to R206), what the host can do (20_memory R66, 70_reset R240), the named reasons a step
can stop, and the state after reset (10_state R35). -/

namespace Sys2Proof.Machine

/-- Response status (R83). Codes 6 to 15 are never produced and have no constructor. -/
inductive Status where
  | ok
  | geometry
  | bounds
  | illegal
  | noParser
  | noHeader
  deriving DecidableEq, Repr

/-- Response tag (R84): how the value is to be read. Tags 5 to 15 are never produced and have no constructor. -/
inductive Tag where
  /-- No value; the value is 0. -/
  | none
  /-- Unsigned integer. -/
  | uint
  /-- 64-bit two's-complement integer. -/
  | sint
  /-- Two character codes, the first in bits 15:8, the second in bits 7:0. -/
  | str2
  /-- 0 (false) or 1 (true). -/
  | bool
  deriving DecidableEq, Repr

/-- A response `(status, tag, value)` (R82). -/
structure Response where
  status : Status
  tag : Tag
  value : Value
  deriving DecidableEq, Repr

/-- The five synchronous exceptions of BFX (R200, R206). Each is taken as R210 says: the machine goes on. -/
inductive Exc where
  /-- Bad field geometry, raised by MKP (R201). -/
  | geometry
  /-- Out-of-range word access, raised by EXT and HDR (R202). -/
  | bounds
  /-- A word that is no command (R203). -/
  | illegal
  /-- EXT without a parser (R204). -/
  | noParser
  /-- RDF or a property command without a header (R205). -/
  | noHeader
  deriving DecidableEq, Repr

/-- Who raised an exception, as far as R210 (c) distinguishes: MKP loses its parser, HDR its header. -/
inductive RaisedBy where
  | mkp
  | hdr
  | other
  deriving DecidableEq, Repr

/-- What the host does: deliver one word of the command stream (R66), or apply the reset event (R240). -/
inductive HostEvent where
  | word (w : Word)
  | reset
  deriving DecidableEq, Repr

/-- The state of one BFX instance. The fields from `w` to `nh` are the tuple of R20; `input`, `responses` and
`freeNext` are the model's own (log 1, log 4). -/
structure State where
  /-- `W[0..7]`, the word file (R21). -/
  w : Vector Word 8
  /-- `NW`, the length of the word sequence (R22). -/
  nw : BitVec 4
  /-- `P`, the parser register (R25). -/
  p : Descriptor
  /-- `PV`, parser valid (R26). -/
  pv : Bool
  /-- `F[0..11]`, the field registers (R31). -/
  f : Vector Word 12
  /-- `HNW`, the header's word count (R27). -/
  hnw : BitVec 4
  /-- `HV`, header valid (R28). -/
  hv : Bool
  /-- `GE`, sticky: a Geometry error was raised (R30). -/
  ge : Bool
  /-- `BE`, sticky: a Bounds error was raised (R30). -/
  be : Bool
  /-- `IE`, sticky: an Illegal refusal was raised (R30). -/
  ie : Bool
  /-- `NP`, sticky: a NoParser refusal was raised (R30). -/
  np : Bool
  /-- `NH`, sticky: a NoHeader refusal was raised (R30). -/
  nh : Bool
  /-- What the host has sent and BFX has not consumed, oldest first (R61, R66, R240; log 1). -/
  input : List HostEvent
  /-- The responses given, oldest first (R66, R82, R247; log 1). -/
  responses : List Response
  /-- How many free values have been used (log 4). -/
  freeNext : Nat
  deriving DecidableEq, Repr

/-- Where the machine has no move. No command of BFX raises one of these: they say that no complete command has
arrived. -/
inductive Fault where
  /-- Raised by `step` when the command stream is exhausted: the run has ended (R247). Safe: BFX does nothing until the
  host acts. -/
  | streamExhausted
  /-- Raised by `step` when the stream ends inside an LDW: the command has not been issued and BFX waits (R81; U5
  "stuck"). Safe: BFX does nothing until more words arrive. -/
  | incompleteLoad
  deriving DecidableEq, Repr

/-- What the model gives no meaning to. -/
inductive Refusal where
  /-- Raised by a refused arm of `exec` for an instruction without a meaning; no arm is refused in this model. Safe. -/
  | notModelled (mnemonic : String)
  /-- Raised by `step` when the host applies reset after an LDW command word and before all its data words: the spec
  has the host apply reset only between a response and the next command (R240; U9 "refuse"; log 7). Safe. -/
  | resetInsideCommand
  deriving DecidableEq, Repr

/-- The state after reset (R35, R240): `NW`, `PV`, `HV` and the sticky flags 0. The spec gives `W`, `P`, `F`, `HNW` no
value; they are 0 here (DESIGN CHOICE, unsafe, log 5). Nothing has been sent and nothing answered. -/
def State.reset : State where
  w := #v[0, 0, 0, 0, 0, 0, 0, 0]
  nw := 0
  p := ⟨0, 0, 0⟩
  pv := false
  f := #v[0, 0, 0, 0, 0, 0, 0, 0, 0, 0, 0, 0]
  hnw := 0
  hv := false
  ge := false
  be := false
  ie := false
  np := false
  nh := false
  input := []
  responses := []
  freeNext := 0

end Sys2Proof.Machine
end

