-- ==== Sys2Proof/Machine/Operands.lean ====
section
/-! DEFINITION. The combinational 32-bit shifter and mask unit (40_shift_mask_unit R100 to R106), the geometry check
(42_extractor R121) and the constant header field table (43_header_decoder R143). -/

namespace Sys2Proof.Machine

/-- `SHR32(w, s)`: logical right shift (R101). -/
def shr32 (w : Word) (s : BitVec 5) : Word := w >>> s.toNat

/-- `MASK(n) = 2^n - 1` over the integers (R102); never presented with `n > 32` (R106; log 15). -/
def mask (n : Nat) : Word := BitVec.ofNat 32 (2 ^ n - 1)

/-- `FIELD32(w, s, n)`: shift, then mask (R103). -/
def field32 (w : Word) (s : BitVec 5) (n : Nat) : Word := shr32 w s &&& mask n

/-- `CAT64(lo, hi) = {hi, lo}`: the cross-word path (R104). -/
def cat64 (lo hi : Word) : Value := hi ++ lo

/-- `zext_64` of a 32-bit value (R8). -/
def zext64 (w : Word) : Value := w.setWidth 64

/-- `sint_64(z)`: the 64-bit two's-complement encoding of an integer (R8). -/
def sint64 (z : Int) : Value := BitVec.ofInt 64 z

/-- `GeomOK(bi, bl)`: the descriptor's validity rule, the 64-bit case first (R121). The sum is exact. -/
def geomOK (bi : BitVec 5) (bl : BitVec 8) : Bool :=
  if bl = 64 then decide (bi = 0)
  else decide (0 < bi.toNat + bl.toNat) && decide (bi.toNat + bl.toNat ≤ 32)

/-- `TABLE[0..11]`, the header field table (R143): seconds, legacy_flag, invalid_flag, frame_index, ref_epoch,
frame_length, log2_num_ch, version, station_id, thread_id, bits_per_sample, complex_flag. -/
def headerTable : Vector Descriptor 12 :=
  #v[⟨0, 0, 30⟩, ⟨0, 30, 1⟩, ⟨0, 31, 1⟩, ⟨1, 0, 24⟩, ⟨1, 24, 6⟩, ⟨2, 0, 24⟩,
     ⟨2, 24, 5⟩, ⟨2, 29, 3⟩, ⟨3, 0, 16⟩, ⟨3, 16, 10⟩, ⟨3, 26, 5⟩, ⟨3, 31, 1⟩]

end Sys2Proof.Machine
end

