-- ==== Sys2Proof/Machine/Flags.lean ====
section
/-! DEFINITION. The sticky fault flags (10_state R30), the status register view (R29) and the codes of a response
(30_encoding R82 to R84). -/

namespace Sys2Proof.Machine

/-- Set the sticky flag of an exception (R30, R206); no other flag changes. -/
def State.setSticky (x : Exc) (s : State) : State :=
  match x with
  | .geometry => { s with ge := true }
  | .bounds => { s with be := true }
  | .illegal => { s with ie := true }
  | .noParser => { s with np := true }
  | .noHeader => { s with nh := true }

/-- The sticky flag of an exception (R206). -/
def State.sticky (s : State) (x : Exc) : Bool :=
  match x with
  | .geometry => s.ge
  | .bounds => s.be
  | .illegal => s.ie
  | .noParser => s.np
  | .noHeader => s.nh

/-- The status an exception is reported with (R206). -/
def Exc.status : Exc → Status
  | .geometry => .geometry
  | .bounds => .bounds
  | .illegal => .illegal
  | .noParser => .noParser
  | .noHeader => .noHeader

/-- One bit. -/
def bit1 (b : Bool) : BitVec 1 := BitVec.ofBool b

/-- `ST`, the read-only status view (R29, R190): `NW` 3:0, `HNW` (0 while `HV` = 0) 7:4, `PV` 8, `HV` 9, the five
sticky flags 20:16, zeros elsewhere. -/
def State.statusView (s : State) : Word :=
  s.nw.setWidth 32 ||| (if s.hv then s.hnw else 0#4).setWidth 32 <<< 4 ||| (bit1 s.pv).setWidth 32 <<< 8
    ||| (bit1 s.hv).setWidth 32 <<< 9 ||| (bit1 s.ge).setWidth 32 <<< 16 ||| (bit1 s.be).setWidth 32 <<< 17
    ||| (bit1 s.ie).setWidth 32 <<< 18 ||| (bit1 s.np).setWidth 32 <<< 19 ||| (bit1 s.nh).setWidth 32 <<< 20

/-- Status codes (R83). -/
def Status.code : Status → BitVec 4
  | .ok => 0
  | .geometry => 1
  | .bounds => 2
  | .illegal => 3
  | .noParser => 4
  | .noHeader => 5

/-- Tag codes (R84). -/
def Tag.code : Tag → BitVec 4
  | .none => 0
  | .uint => 1
  | .sint => 2
  | .str2 => 3
  | .bool => 4

/-- The 72-bit packing of a response: value 63:0, tag 67:64, status 71:68 (R82). -/
def Response.pack (r : Response) : BitVec 72 := r.status.code ++ r.tag.code ++ r.value

end Sys2Proof.Machine
end

