-- ==== Sys2Proof/Machine/Ops.lean ====
section
/-! DEFINITION. The named operations over the state: giving a response (00_scope R11), raising an exception
(60_exceptions R210), reading the word file through the bounds check (20_memory R53), loading it (R54), extraction
(42_extractor R124), latching the parser and the header, and the reset event (70_reset R240). -/

namespace Sys2Proof.Machine

/-- Give one response (R82). -/
def State.emit (r : Response) (s : State) : State := { s with responses := s.responses ++ [r] }

/-- `respond(tag, value)`: end a command normally, status `OK` (R11). -/
def State.respond (tag : Tag) (value : Value) (s : State) : State := s.emit ⟨.ok, tag, value⟩

/-- `respond()`: `respond(NONE, 0)` (R11). -/
def State.respondNone (s : State) : State := s.respond .none 0

/-- R210 (c): an exception of MKP clears `PV`, one of HDR clears `HV`, any other clears neither. -/
def State.clearValid (who : RaisedBy) (s : State) : State :=
  match who with
  | .mkp => { s with pv := false }
  | .hdr => { s with hv := false }
  | .other => s

/-- `raise X` (R210): the sticky flag of `X` is set, `PV` or `HV` is cleared for MKP or HDR, the response is
`(status of X, NONE, 0)`, and the machine is ready for the next command. -/
def State.raise (who : RaisedBy) (x : Exc) (s : State) : State :=
  ((s.clearValid who).setSticky x).emit ⟨x.status, .none, 0⟩

/-- `MemRead(i, 1)` (R53): `Bounds` when `i >= NW`. Indices 8 to 16 are absent whatever `NW` is (R51, R59; log 10). -/
def State.memRead1 (s : State) (i : Nat) : Except Exc Word :=
  if h : i < s.nw.toNat ∧ i < 8 then .ok s.w[i] else .error .bounds

/-- `MemRead(i, 2)` (R53): the low word is checked first, then the high word; `i + 1` does not wrap. `W[i]` is bits
31:0. -/
def State.memRead2 (s : State) (i : Nat) : Except Exc (BitVec 64) :=
  match s.memRead1 i with
  | .error x => .error x
  | .ok lo =>
    match s.memRead1 (i + 1) with
    | .error x => .error x
    | .ok hi => .ok (hi ++ lo)

/-- `Extract(wi, bi, bl)` (R124), used by EXT and HDR: the 64-bit case reads two words, every other length one. -/
def State.extract (s : State) (d : Descriptor) : Except Exc Value :=
  if d.bl = 64 then
    match s.memRead2 d.wi.toNat with
    | .error x => .error x
    | .ok v => .ok (cat64 (v.extractLsb' 0 32) (v.extractLsb' 32 32))
  else
    match s.memRead1 d.wi.toNat with
    | .error x => .error x
    | .ok w => .ok (zext64 (field32 w d.bi d.bl.toNat))

/-- HDR's loop (R141): extract each descriptor in order, keeping the low 32 bits; the first exception ends it. -/
def State.extractAll (s : State) : List Descriptor → Except Exc (List Word)
  | [] => .ok []
  | d :: ds =>
    match s.extract d with
    | .error x => .error x
    | .ok v =>
      match s.extractAll ds with
      | .error x => .error x
      | .ok ts => .ok (v.setWidth 32 :: ts)

/-- What `W[i]` holds after LDW of `data` (R110): the data word where there is one, a free value where the contents
become unspecified (R23; log 4). `k` is the first free value not yet used. -/
def loadedWord (data : List Word) (k i : Nat) : Word := (data[i]?).getD (Config.freeWord (k + i))

/-- LDW's writes, all together (R54, R110): `W` and `NW`. -/
def State.loadSequence (data : List Word) (s : State) : State :=
  { s with
    w := Vector.ofFn fun i : Fin 8 => loadedWord data s.freeNext i.val
    nw := BitVec.ofNat 4 data.length
    freeNext := s.freeNext + 8 }

/-- MKP's writes (R122): `P` and `PV <- 1`. -/
def State.setParser (d : Descriptor) (s : State) : State := { s with p := d, pv := true }

/-- HDR's writes (R141): `F`, `HNW <- NW`, `HV <- 1`. `ts` are the twelve values in table order. -/
def State.latchHeader (ts : List Word) (s : State) : State :=
  { s with f := Vector.ofFn fun k : Fin 12 => ts.getD k.val 0, hnw := s.nw, hv := true }

/-- The effect of the reset event (R35, R240): `NW`, `PV`, `HV` and the sticky flags become 0; `W`, `P`, `F`, `HNW`
become unspecified, here free values (log 6). No response is given and none is taken back. -/
def State.hostReset (s : State) : State :=
  { s with
    w := Vector.ofFn fun i : Fin 8 => Config.freeWord (s.freeNext + i.val)
    nw := 0
    p := ⟨(Config.freeWord (s.freeNext + 20)).setWidth 4, (Config.freeWord (s.freeNext + 21)).setWidth 5,
          (Config.freeWord (s.freeNext + 22)).setWidth 8⟩
    pv := false
    f := Vector.ofFn fun k : Fin 12 => Config.freeWord (s.freeNext + 8 + k.val)
    hnw := (Config.freeWord (s.freeNext + 23)).setWidth 4
    hv := false
    ge := false
    be := false
    ie := false
    np := false
    nh := false
    freeNext := s.freeNext + 24 }

/-- `Bounds` and the other exceptions as an outcome of a command that raises them: the machine goes on (R210, R212). -/
def raiseOutcome (who : RaisedBy) (x : Exc) (s : State) : Host.Outcome State Fault Refusal := .next (s.raise who x)

end Sys2Proof.Machine
end

