-- ==== Sys2Proof/Machine/Extractor.lean ====
section
/-! DEFINITION. The bit-field extractor: MKP and EXT (42_extractor). -/

namespace Sys2Proof.Machine

/-- MKP (R122): check the geometry, then latch the parser; never looks at the words. -/
def execMkp (wi : BitVec 4) (bi : BitVec 5) (bl : BitVec 8) (s : State) : Host.Outcome State Fault Refusal :=
  if geomOK bi bl then .next (s.setParser ⟨wi, bi, bl⟩).respondNone else raiseOutcome .mkp .geometry s

/-- EXT (R123): `NoParser` first, then `Extract` through `P`, which may raise `Bounds`. -/
def execExt (s : State) : Host.Outcome State Fault Refusal :=
  if s.pv then
    match s.extract s.p with
    | .ok v => .next (s.respond .uint v)
    | .error x => raiseOutcome .other x s
  else raiseOutcome .other .noParser s

end Sys2Proof.Machine
end

