-- ==== Sys2Proof/Machine/HeaderDecoder.lean ====
section
/-! DEFINITION. The VDIF header decoder: HDR and RDF (43_header_decoder), and the common part of every command that
reads the decoded header (44_derived_properties R160). -/

namespace Sys2Proof.Machine

/-- HDR (R141): decode all twelve table entries in order, all or nothing. -/
def execHdr (s : State) : Host.Outcome State Fault Refusal :=
  match s.extractAll headerTable.toList with
  | .ok ts => .next (s.latchHeader ts).respondNone
  | .error x => raiseOutcome .hdr x s

/-- The common part of RDF and the property commands (R142, R160): `NoHeader` when `HV` = 0, else the response; no
other state is written. -/
def headerQuery (tag : Tag) (value : Value) (s : State) : Host.Outcome State Fault Refusal :=
  if s.hv then .next (s.respond tag value) else raiseOutcome .other .noHeader s

/-- RDF (R142): the raw field register. A field number above 11 is no command: it is what R77 says of the word that
names it, `Illegal` (log 11). -/
def execRdf (field : BitVec 4) (s : State) : Host.Outcome State Fault Refusal :=
  if h : field.toNat < 12 then headerQuery .uint (zext64 s.f[field.toNat]) s else raiseOutcome .other .illegal s

end Sys2Proof.Machine
end

