-- ==== Sys2Proof/Machine/Properties.lean ====
section
/-! DEFINITION. The eleven derived properties of the decoded header (44_derived_properties R160 to R173). Each value is
a function of the field registers (and `HNW` for PLB and NSMP), in exact arithmetic narrowed at the end. -/

namespace Sys2Proof.Machine

/-- Bits per sample, 1 to 32: `F[10] + 1` (R161). -/
def bitsPerSample (f : Vector Word 12) : Nat := f[10].toNat + 1

/-- Frame length in bytes: `F[5] * 8` (R162). -/
def frameLengthBytes (f : Vector Word 12) : Nat := f[5].toNat * 8

/-- Payload length in bytes, possibly negative: `F[5] * 8 - HNW * 4` (R163). -/
def payloadLengthBytes (f : Vector Word 12) (hnw : BitVec 4) : Int := (f[5].toNat : Int) * 8 - (hnw.toNat : Int) * 4

/-- Number of channels: `2^F[6]` (R164). -/
def numChannels (f : Vector Word 12) : Nat := 2 ^ f[6].toNat

/-- `values_per_word` (R165): `(32 div bps) div c`, two divisions from left to right. -/
def valuesPerWord (f : Vector Word 12) : Nat := 32 / bitsPerSample f / (if f[11] = 1 then 2 else 1)

/-- `sdiv(a, b)` (R169), with the rounding of a negative dividend as a parameter. -/
def sdiv (negDiv : NegDiv) (a : Int) (b : Nat) : Int :=
  if 0 ≤ a then ((a.toNat / b : Nat) : Int)
  else
    match negDiv with
    | .trunc => -(((-a).toNat / b : Nat) : Int)
    | .floor => -((((-a).toNat + b - 1) / b : Nat) : Int)

/-- Number of samples (R165): the product `q * vpw` is formed before the division by the channel count. `plb / 4` is
exact, `q = F[5] * 2 - HNW`. -/
def numSamples (negDiv : NegDiv) (f : Vector Word 12) (hnw : BitVec 4) : Int :=
  sdiv negDiv (payloadLengthBytes f hnw / 4 * (valuesPerWord f : Int)) (numChannels f)

/-- STID's tag (R166): `STR2` when the upper byte of the raw 16-bit field is 48 to 128 inclusive, else `UINT`. -/
def stationTag (f : Vector Word 12) : Tag :=
  if 48 ≤ (f[8].extractLsb' 8 8).toNat ∧ (f[8].extractLsb' 8 8).toNat ≤ 128 then .str2 else .uint

/-- An unsigned result as a response value. -/
def uint64 (n : Nat) : Value := BitVec.ofNat 64 n

/-- BPS (R161). -/
def execBps (s : State) : Host.Outcome State Fault Refusal := headerQuery .uint (uint64 (bitsPerSample s.f)) s

/-- FLB (R162). -/
def execFlb (s : State) : Host.Outcome State Fault Refusal := headerQuery .uint (uint64 (frameLengthBytes s.f)) s

/-- PLB (R163): two's complement, tag `SINT`. -/
def execPlb (s : State) : Host.Outcome State Fault Refusal :=
  headerQuery .sint (sint64 (payloadLengthBytes s.f s.hnw)) s

/-- NCH (R164). -/
def execNch (s : State) : Host.Outcome State Fault Refusal := headerQuery .uint (uint64 (numChannels s.f)) s

/-- NSMP (R165), with this machine's `NEG_DIV` (log 3). -/
def execNsmp (s : State) : Host.Outcome State Fault Refusal :=
  headerQuery .sint (sint64 (numSamples Config.negDiv s.f s.hnw)) s

/-- STID (R166): the value is the raw field in both branches, the tag says which. -/
def execStid (s : State) : Host.Outcome State Fault Refusal := headerQuery (stationTag s.f) (zext64 s.f[8]) s

/-- THID (R167). -/
def execThid (s : State) : Host.Outcome State Fault Refusal := headerQuery .uint (zext64 s.f[9]) s

/-- VER (R168). -/
def execVer (s : State) : Host.Outcome State Fault Refusal := headerQuery .uint (zext64 s.f[7]) s

/-- ISLEG (R170). -/
def execIsleg (s : State) : Host.Outcome State Fault Refusal := headerQuery .bool (zext64 s.f[1]) s

/-- ISCPX (R171). -/
def execIscpx (s : State) : Host.Outcome State Fault Refusal := headerQuery .bool (zext64 s.f[11]) s

/-- ISVAL (R172): true when `invalid_flag` is 0, the corrected polarity (90_conflicts C2). -/
def execIsval (s : State) : Host.Outcome State Fault Refusal := headerQuery .bool (1 - zext64 s.f[2]) s

end Sys2Proof.Machine
end

