-- ==== Sys2Proof/Machine/System.lean ====
section
/-! DEFINITION. System commands: RDST (45_system). -/

namespace Sys2Proof.Machine

/-- RDST (R190): the status view; clears nothing. -/
def execRdst (s : State) : Host.Outcome State Fault Refusal := .next (s.respond .uint (zext64 s.statusView))

end Sys2Proof.Machine
end

