-- ==== Sys2Proof/Machine/WordLoad.lean ====
section
/-! DEFINITION. Loading the word sequence: LDW (41_word_load). -/

namespace Sys2Proof.Machine

/-- LDW (R110): load the data words and `NW`, respond `(OK, NONE, 0)`. A count above 8 is no command: it is what R77
says of the word that names it, `Illegal` (log 11). -/
def execLdw (data : List Word) (s : State) : Host.Outcome State Fault Refusal :=
  if data.length ≤ 8 then .next (s.loadSequence data).respondNone else raiseOutcome .other .illegal s

end Sys2Proof.Machine
end

