-- ==== Sys2Proof/Machine/Dispatch.lean ====
section
/-! DEFINITION. The meaning of each command: one arm per constructor of `Instr` (30_encoding R74). -/

namespace Sys2Proof.Machine

def exec (i : Instr) (s : State) : Host.Outcome State Fault Refusal :=
  match i with
  | .ldw data => Sys2Proof.Machine.execLdw data s
  | .mkp wi bi bl => Sys2Proof.Machine.execMkp wi bi bl s
  | .ext => Sys2Proof.Machine.execExt s
  | .hdr => Sys2Proof.Machine.execHdr s
  | .rdf field => Sys2Proof.Machine.execRdf field s
  | .bps => Sys2Proof.Machine.execBps s
  | .flb => Sys2Proof.Machine.execFlb s
  | .plb => Sys2Proof.Machine.execPlb s
  | .nch => Sys2Proof.Machine.execNch s
  | .nsmp => Sys2Proof.Machine.execNsmp s
  | .stid => Sys2Proof.Machine.execStid s
  | .thid => Sys2Proof.Machine.execThid s
  | .ver => Sys2Proof.Machine.execVer s
  | .isleg => Sys2Proof.Machine.execIsleg s
  | .iscpx => Sys2Proof.Machine.execIscpx s
  | .isval => Sys2Proof.Machine.execIsval s
  | .rdst => Sys2Proof.Machine.execRdst s

end Sys2Proof.Machine
end

