-- ==== Sys2Proof/Machine/HostPort.lean ====
section
/-! DEFINITION. The host's side of the command port: what stands at the head of the command stream (20_memory R66,
30_encoding R80, R81), and what the host can do to the machine (R61, 70_reset R240). -/

namespace Sys2Proof.Machine

/-- The words the host has delivered before its next reset event. -/
def leadingWords : List HostEvent → List Word
  | .word c :: rest => c :: leadingWords rest
  | .reset :: _ => []
  | [] => []

/-- What the head of the host's stream is. -/
inductive Fetched where
  /-- A complete command, and what comes after it. -/
  | command (i : Instr) (rest : List HostEvent)
  /-- An illegal word, and what comes after it (R77). -/
  | illegal (rest : List HostEvent)
  /-- The reset event, and what comes after it (R240). -/
  | reset (rest : List HostEvent)
  /-- Nothing: the stream is exhausted (R247). -/
  | exhausted
  /-- An LDW whose data words have not all arrived (R81). -/
  | incomplete
  /-- A reset event between an LDW's command word and its last data word (R240; log 7). -/
  | resetInside
  deriving DecidableEq, Repr

/-- The head of the host's stream (R66, R80, R81, R240). -/
def fetch : List HostEvent → Fetched
  | [] => .exhausted
  | .reset :: rest => .reset rest
  | .word c :: rest =>
    match decode (c :: leadingWords rest) with
    | .command i _ => .command i ((HostEvent.word c :: rest).drop i.lengthWords)
    | .illegal _ => .illegal rest
    | .incomplete => if HostEvent.reset ∈ rest then .resetInside else .incomplete

/-- The host delivers words, in order (R61, R66). -/
def State.deliver (ws : List Word) (s : State) : State := { s with input := s.input ++ ws.map .word }

/-- The host delivers a serialised stream, each word little-endian (R55, R66); bytes of an incomplete last word are not
delivered (log 19). -/
def State.deliverBytes (bs : List Byte) (s : State) : State := s.deliver (wordsOfBytes bs).1

/-- The host applies reset after everything it has sent so far (R240). -/
def State.requestReset (s : State) : State := { s with input := s.input ++ [.reset] }

/-- Consume the head of the stream: what is left is `rest`. -/
def State.takeInput (rest : List HostEvent) (s : State) : State := { s with input := rest }

/-- Put words at the head of the stream, before everything else the host has sent. -/
def State.sendFirst (ws : List Word) (s : State) : State := { s with input := ws.map .word ++ s.input }

end Sys2Proof.Machine
end

