-- ==== Sys2Proof/Machine/Step.lean ====
section
/-! DEFINITION. One step of BFX (10_state R20, 20_memory R61, R66): consume the head of the host's stream, execute it to
completion, give its response. -/

namespace Sys2Proof.Machine

/-- One step: a command is consumed and executed, an illegal word is consumed and refused (R77), the reset event is
consumed and applied (R240). With no complete command there is no move (R81, R247). -/
def step (s : State) : Host.Outcome State Fault Refusal :=
  match fetch s.input with
  | .command i rest => exec i (s.takeInput rest)
  | .illegal rest => raiseOutcome .other .illegal (s.takeInput rest)
  | .reset rest => .next (s.takeInput rest).hostReset
  | .exhausted => .fault .streamExhausted
  | .incomplete => .fault .incompleteLoad
  | .resetInside => .refused .resetInsideCommand

/-- The state in which the next step runs the instruction whose bits are `w` (bits from `nbits` up are 0, up to the
longest command): its words stand at the head of the host's stream (log 2). -/
def State.withFetchWord (s : State) (nbits w : Nat) : State :=
  s.sendFirst (wordsOfNat maxCommandWords (w % 2 ^ nbits))

end Sys2Proof.Machine
end

