-- ==== Sys2Proof/Machine/Assembler.lean ====
section
/-! DEFINITION. The pseudo-instructions (30_encoding R86), the field names (10_state R31) and the assembler syntax of the
spec's examples (30_encoding R85; log 17). No step of the machine depends on this file: it says which commands, and so
which words, a line of the spec's notation stands for. -/

namespace Sys2Proof.Machine

/-- The twelve field names and their indices, in table order (R31, R143). -/
def fieldNames : List (String × BitVec 4) :=
  [("seconds", 0), ("legacy_flag", 1), ("invalid_flag", 2), ("frame_index", 3), ("ref_epoch", 4), ("frame_length", 5),
   ("log2_num_ch", 6), ("version", 7), ("station_id", 8), ("thread_id", 9), ("bits_per_sample", 10),
   ("complex_flag", 11)]

/-- The index of a field name (R31). -/
def fieldIndex (name : List Char) : Option (BitVec 4) :=
  (fieldNames.find? fun row => row.1.toList == name).map (·.2)

/-- The six pseudo-instructions of R86. -/
inductive Pseudo where
  | field (wi : BitVec 4) (bi : BitVec 5) (bl : BitVec 8)
  | word (i : BitVec 4)
  | dword (i : BitVec 4)
  | ldh (data : Vector Word 8)
  | ldl (data : Vector Word 4)
  | rdfName (name : List Char)
  deriving DecidableEq, Repr

/-- The unconditional expansion of a pseudo-instruction (R86); none for a name that is no field's. -/
def Pseudo.expand : Pseudo → Option (List Instr)
  | .field wi bi bl => some [.mkp wi bi bl, .ext]
  | .word i => some [.mkp i 0 32, .ext]
  | .dword i => some [.mkp i 0 64, .ext]
  | .ldh data => some [.ldw data.toList]
  | .ldl data => some [.ldw data.toList]
  | .rdfName name => (fieldIndex name).map fun k => [.rdf k]

/-! ### Reading a line (R85) -/

/-- A blank within a line. -/
def isBlank (c : Char) : Bool := c == ' ' || c == '\t'

/-- A line without its comment, which a semicolon starts (R85). -/
def stripComment (line : List Char) : List Char := line.takeWhile (· != ';')

/-- Text without the blanks around it. -/
def trimBlanks (cs : List Char) : List Char := ((cs.dropWhile isBlank).reverse.dropWhile isBlank).reverse

/-- The operands between commas (R85). -/
def splitCommas : List Char → List (List Char)
  | [] => [[]]
  | c :: rest =>
    match c == ',', splitCommas rest with
    | true, parts => [] :: parts
    | false, part :: parts => (c :: part) :: parts
    | false, [] => [[c]]

/-- A digit of the base 16 or 10. -/
def digitValue (base : Nat) (c : Char) : Option Nat :=
  let d :=
    if '0'.toNat ≤ c.toNat && c.toNat ≤ '9'.toNat then c.toNat - '0'.toNat
    else if 'A'.toNat ≤ c.toNat && c.toNat ≤ 'F'.toNat then c.toNat - 'A'.toNat + 10
    else if 'a'.toNat ≤ c.toNat && c.toNat ≤ 'f'.toNat then c.toNat - 'a'.toNat + 10
    else base
  if d < base then some d else none

/-- The number a list of digits stands for, most significant first. -/
def digitsValue (base acc : Nat) : List Char → Option Nat
  | [] => some acc
  | c :: rest =>
    match digitValue base c with
    | some d => digitsValue base (acc * base + d) rest
    | none => none

/-- A number: decimal, or hexadecimal after `0x` (R85). -/
def parseNumber : List Char → Option Nat
  | [] => none
  | ['0', 'x'] => none
  | '0' :: 'x' :: rest => digitsValue 16 0 rest
  | cs => digitsValue 10 0 cs

/-- A number that fits an operand field of the given width (R73: operands are used as they stand). -/
def parseField (width : Nat) (cs : List Char) : Option (BitVec width) :=
  match parseNumber cs with
  | some n => if n < 2 ^ width then some (BitVec.ofNat width n) else none
  | none => none

/-- A list of data words, all legal or none. -/
def parseWords : List (List Char) → Option (List Word)
  | [] => some []
  | cs :: rest =>
    match parseField 32 cs, parseWords rest with
    | some w, some ws => some (w :: ws)
    | _, _ => none

/-- LDW with a count of operands that the line's mnemonic allows (R85, R86). -/
def assembleLoad (allowed : Nat → Bool) (operands : List (List Char)) : Option (List Instr) :=
  match parseWords operands with
  | some ws => if allowed ws.length then some [.ldw ws] else none
  | none => none

/-- RDF by number, 0 to 11, or by field name (R85, R86). -/
def assembleRdf (operand : List Char) : Option (List Instr) :=
  match fieldIndex operand, parseField 4 operand with
  | some k, _ => some [.rdf k]
  | none, some k => if k.toNat ≤ 11 then some [.rdf k] else none
  | none, none => none

/-- The commands without operands, by mnemonic (R85). -/
def plainCommands : List Instr :=
  [.ext, .hdr, .bps, .flb, .plb, .nch, .nsmp, .stid, .thid, .ver, .isleg, .iscpx, .isval, .rdst]

/-- A mnemonic and its operands (R85, R86). -/
def assembleParts (mnemonic : List Char) (operands : List (List Char)) : Option (List Instr) :=
  if mnemonic = "LDW".toList then assembleLoad (fun n => decide (n ≤ 8)) operands
  else if mnemonic = "LDH".toList then assembleLoad (fun n => decide (n = 8)) operands
  else if mnemonic = "LDL".toList then assembleLoad (fun n => decide (n = 4)) operands
  else
    match operands with
    | [] => ((plainCommands.find? fun i => i.mnemonic.toList == mnemonic)).map fun i => [i]
    | [a] =>
      if mnemonic = "RDF".toList then assembleRdf a
      else if mnemonic = "WORD".toList then (parseField 4 a).bind fun i => (Pseudo.word i).expand
      else if mnemonic = "DWORD".toList then (parseField 4 a).bind fun i => (Pseudo.dword i).expand
      else none
    | [a, b, c] =>
      match parseField 4 a, parseField 5 b, parseField 8 c with
      | some wi, some bi, some bl =>
        if mnemonic = "MKP".toList then some [.mkp wi bi bl]
        else if mnemonic = "FIELD".toList then (Pseudo.field wi bi bl).expand
        else none
      | _, _, _ => none
    | _ => none

/-- The commands one line stands for (R85, R86): none at all for an empty line, and no answer for a line that is not of
the syntax. -/
def assembleLine (line : String) : Option (List Instr) :=
  let body := trimBlanks (stripComment line.toList)
  let mnemonic := body.takeWhile fun c => !isBlank c
  let operandText := trimBlanks (body.drop mnemonic.length)
  if body = [] then some []
  else assembleParts mnemonic (if operandText = [] then [] else (splitCommas operandText).map trimBlanks)

/-- The words one line stands for. -/
def assembleWordsOfLine (line : String) : Option (List Word) :=
  (assembleLine line).map fun is => is.flatMap encode

end Sys2Proof.Machine
end

