-- ==== Sys2Proof/Safety.lean ====
section
/-! DEFINITION. What counts as a legal state of BFX (the invariants of 10_state R22, R26, R28, R31), when two states
cannot be told apart by the host (10_state R23, R26, R28; 93_implementation_defined U1, U2), and the groups of
fields that frames speak of (10_state R36). -/

namespace Sys2Proof.Machine

/-- `NW` is 0 to 8 (R22). -/
abbrev State.LengthLegal (s : State) : Prop := s.nw.toNat ≤ 8

/-- `PV = 1` means `P` holds a descriptor that passed the geometry check (R26). -/
abbrev State.ParserLegal (s : State) : Prop := s.pv = true → geomOK s.p.bi s.p.bl = true

/-- `HV = 1` means `HNW` is 4 to 8 (R163) and every field register is a value of its table entry's width (R31). -/
abbrev State.HeaderLegal (s : State) : Prop :=
  s.hv = true →
    (4 ≤ s.hnw.toNat ∧ s.hnw.toNat ≤ 8) ∧
      ∀ k : Fin 12, s.f[k].toNat < 2 ^ headerTable[k].bl.toNat

/-- The invariant every reachable state has: R22, R26, R28 and R31 together. -/
abbrev State.Inv (s : State) : Prop := s.LengthLegal ∧ s.ParserLegal ∧ s.HeaderLegal

/-- Two states that differ at most in what the spec calls unspecified and unobservable: `W[NW..7]` (R23), `P` while
`PV = 0` (R26), `F` and `HNW` while `HV = 0` (R28), and the model's count of free values. -/
structure State.SeenSame (s t : State) : Prop where
  nw : s.nw = t.nw
  w : ∀ (i : Nat) (h : i < 8), i < s.nw.toNat → s.w[i] = t.w[i]
  pv : s.pv = t.pv
  p : s.pv = true → s.p = t.p
  hv : s.hv = t.hv
  f : s.hv = true → s.f = t.f
  hnw : s.hv = true → s.hnw = t.hnw
  ge : s.ge = t.ge
  be : s.be = t.be
  ie : s.ie = t.ie
  np : s.np = t.np
  nh : s.nh = t.nh
  input : s.input = t.input
  responses : s.responses = t.responses

/-- Two outcomes that the host cannot tell apart: the same kind, and states that cannot be told apart. -/
def SeenSameOutcome : Host.Outcome State Fault Refusal → Host.Outcome State Fault Refusal → Prop
  | .next s, .next t => s.SeenSame t
  | .fault a, .fault b => a = b
  | .refused a, .refused b => a = b
  | _, _ => False

/-- The word file and its length are those of `s` (the column `W, NW` of R36). -/
abbrev State.WordsKept (s t : State) : Prop := t.w = s.w ∧ t.nw = s.nw

/-- The parser is that of `s` (the columns `P`, `PV` of R36). -/
abbrev State.ParserKept (s t : State) : Prop := t.p = s.p ∧ t.pv = s.pv

/-- The decoded header is that of `s` (the columns `F, HNW`, `HV` of R36). -/
abbrev State.HeaderKept (s t : State) : Prop := t.f = s.f ∧ t.hnw = s.hnw ∧ t.hv = s.hv

/-- The five sticky flags are those of `s` (R30). -/
abbrev State.FlagsKept (s t : State) : Prop :=
  t.ge = s.ge ∧ t.be = s.be ∧ t.ie = s.ie ∧ t.np = s.np ∧ t.nh = s.nh

/-- The eleven property commands (R74, R160). -/
def propertyCommands : List Instr :=
  [.bps, .flb, .plb, .nch, .nsmp, .stid, .thid, .ver, .isleg, .iscpx, .isval]

/-- The exceptions each command can raise (R207). -/
def raisable : Instr → List Exc
  | .ldw _ => []
  | .mkp _ _ _ => [.geometry]
  | .ext => [.noParser, .bounds]
  | .hdr => [.bounds]
  | .rdf _ => [.noHeader]
  | .bps => [.noHeader]
  | .flb => [.noHeader]
  | .plb => [.noHeader]
  | .nch => [.noHeader]
  | .nsmp => [.noHeader]
  | .stid => [.noHeader]
  | .thid => [.noHeader]
  | .ver => [.noHeader]
  | .isleg => [.noHeader]
  | .iscpx => [.noHeader]
  | .isval => [.noHeader]
  | .rdst => []

/-- The number that the fields of a word of the given lengths, packed one after another from bit `start`, stand for when
each is shifted back to its place (R105 c). -/
def reassemble (w : Word) (start : Nat) : List Nat → Nat
  | [] => 0
  | n :: ns => (field32 w (BitVec.ofNat 5 start) n).toNat * 2 ^ start + reassemble w (start + n) ns

end Sys2Proof.Machine
end

