-- ==== Sys2Proof/Certificates/Slice0/Obligations.lean ====
section
/-! DEFINITION. The statements for the provers, from the numbered rules of spec/. -/

open Sys2Proof Sys2Proof.Machine

/-! ### Encoding and decoding -/

/-- R70 to R76, R80: every well-formed command, encoded and followed by any words, decodes to itself and leaves those
words. -/
def Obligations.DecodeOfEncodedCommand : Prop :=
  ∀ (i : Instr) (rest : List Word), i.wellFormed = true → decode (encode i ++ rest) = .command i rest

/-- R76, R80: whatever the decoder reads as a command is that command's own encoding, and well-formed: no word is read
two ways and no encoding falls through to another. -/
def Obligations.EncodeOfDecodedCommand : Prop :=
  ∀ (ws rest : List Word) (i : Instr), decode ws = .command i rest → i.wellFormed = true ∧ ws = encode i ++ rest

/-- R74: the seventeen rows of the opcode map, and that a word is the command of a row exactly when the row selects it:
`C & mask = match` and the selector is in the legal range. -/
def Obligations.DecoderFollowsOpcodeMap : Prop :=
  opcodeRows.map (fun r => (r.mnemonic, r.pattern, r.mask)) =
    [("LDW", 0x10000000, 0xF0FFFFFF), ("MKP", 0x20000000, 0xFFF0E000), ("EXT", 0x30000000, 0xFFFFFFFF),
     ("HDR", 0x40000000, 0xFFFFFFFF), ("RDF", 0x50000000, 0xF0FFFFFF), ("BPS", 0x60000000, 0xFFFFFFFF),
     ("FLB", 0x61000000, 0xFFFFFFFF), ("PLB", 0x62000000, 0xFFFFFFFF), ("NCH", 0x63000000, 0xFFFFFFFF),
     ("NSMP", 0x64000000, 0xFFFFFFFF), ("STID", 0x65000000, 0xFFFFFFFF), ("THID", 0x66000000, 0xFFFFFFFF),
     ("VER", 0x67000000, 0xFFFFFFFF), ("ISLEG", 0x68000000, 0xFFFFFFFF), ("ISCPX", 0x69000000, 0xFFFFFFFF),
     ("ISVAL", 0x6A000000, 0xFFFFFFFF), ("RDST", 0x70000000, 0xFFFFFFFF)] ∧
    (∀ (c : Word) (r : OpcodeRow), r ∈ opcodeRows → (r.selects c = true ↔
      c &&& r.mask = r.pattern ∧ (r.mnemonic = "LDW" → (c.extractLsb' 24 4).toNat ≤ 8) ∧
        (r.mnemonic = "RDF" → (c.extractLsb' 24 4).toNat ≤ 11))) ∧
    ∀ (c : Word) (m : String),
      (decodeWord c).mnemonic = some m ↔ ∃ r ∈ opcodeRows, r.mnemonic = m ∧ r.selects c = true

/-- R74: no word is selected by two rows of the opcode map. -/
def Obligations.OpcodeRowsNeverOverlap : Prop :=
  ∀ (c : Word) (r r' : OpcodeRow), r ∈ opcodeRows → r' ∈ opcodeRows → r.selects c = true → r'.selects c = true → r = r'

/-- R77: the illegal words are the listed ones and no others; at an illegal word the machine consumes that one word, sets
`IE` and changes nothing else, and answers `ILLEGAL`. -/
def Obligations.IllegalWordsExactly : Prop :=
  (∀ c : Word, decodeWord c = .illegal ↔
    c.extractLsb' 28 4 = 0 ∨ 8 ≤ (c.extractLsb' 28 4).toNat ∨ c.extractLsb' 20 4 ≠ 0 ∨
      (c.extractLsb' 28 4 = 2 ∧ c.extractLsb' 13 3 ≠ 0) ∨ (c.extractLsb' 28 4 ≠ 2 ∧ c.extractLsb' 0 20 ≠ 0) ∨
      ((c.extractLsb' 28 4 = 2 ∨ c.extractLsb' 28 4 = 3 ∨ c.extractLsb' 28 4 = 4 ∨ c.extractLsb' 28 4 = 7) ∧
        c.extractLsb' 24 4 ≠ 0) ∨
      (c.extractLsb' 28 4 = 1 ∧ 9 ≤ (c.extractLsb' 24 4).toNat) ∨
      (c.extractLsb' 28 4 = 5 ∧ 12 ≤ (c.extractLsb' 24 4).toNat) ∨
      (c.extractLsb' 28 4 = 6 ∧ 11 ≤ (c.extractLsb' 24 4).toNat)) ∧
    ∀ (s : State) (c : Word) (rest : List HostEvent), s.input = .word c :: rest → decodeWord c = .illegal →
      step s = .next { s with
        input := rest, ie := true, responses := s.responses ++ [⟨.illegal, .none, 0⟩] }

/-- R87: the thirteen worked encodings, and that each decodes to its command. -/
def Obligations.WorkedEncodings : Prop :=
  encode (.mkp 0 0 30) = [0x2000001E] ∧ encode (.mkp 1 24 6) = [0x20011806] ∧ encode (.mkp 3 31 1) = [0x20031F01] ∧
    encode (.mkp 0 0 33) = [0x20000021] ∧ encode (.mkp 1 24 16) = [0x20011810] ∧
    encode (.mkp 3 31 2) = [0x20031F02] ∧ encode (.mkp 2 0 64) = [0x20020040] ∧ encode .ext = [0x30000000] ∧
    encode .hdr = [0x40000000] ∧ encode (.rdf 4) = [0x54000000] ∧ encode .isval = [0x6A000000] ∧
    encode .rdst = [0x70000000] ∧
    encode (.ldw [0x00DB2C77, 0x1C000000, 0x20000275, 0x0401FFFC]) =
      [0x14000000, 0x00DB2C77, 0x1C000000, 0x20000275, 0x0401FFFC] ∧
    decode [0x20011806] = .command (.mkp 1 24 6) [] ∧ decode [0x54000000] = .command (.rdf 4) [] ∧
    decode [0x6A000000] = .command .isval [] ∧
    decode [0x12000000, 0x30000000, 0x40000000] = .command (.ldw [0x30000000, 0x40000000]) []

/-- R55: word `j` of a byte stream is the little-endian value of its bytes `4j` to `4j+3`, and bit `b` of word `j` is bit
`b mod 8` of byte `4j + (b div 8)`. -/
def Obligations.WordsAreLittleEndianBytes : Prop :=
  ∀ (bs : List Byte) (j : Nat), 4 * j + 3 < bs.length →
    ∃ w : Word, (wordsOfBytes bs).1[j]? = some w ∧
      w.toNat = (bs.getD (4 * j) 0).toNat + (bs.getD (4 * j + 1) 0).toNat * 2 ^ 8 +
        (bs.getD (4 * j + 2) 0).toNat * 2 ^ 16 + (bs.getD (4 * j + 3) 0).toNat * 2 ^ 24 ∧
      ∀ b : Nat, b < 32 → w.getLsbD b = (bs.getD (4 * j + b / 8) 0).getLsbD (b % 8)

/-- R86: the unconditional expansions of the pseudo-instructions; RDF by name expands to RDF of the name's index; where
the MKP of an expansion raises `Geometry`, its EXT raises `NoParser`. -/
def Obligations.PseudoInstructionsExpand : Prop :=
  (∀ wi bi bl, (Pseudo.field wi bi bl).expand = some [.mkp wi bi bl, .ext]) ∧
    (∀ i, (Pseudo.word i).expand = some [.mkp i 0 32, .ext]) ∧
    (∀ i, (Pseudo.dword i).expand = some [.mkp i 0 64, .ext]) ∧
    (∀ d : Vector Word 8, (Pseudo.ldh d).expand = some [.ldw d.toList]) ∧
    (∀ d : Vector Word 4, (Pseudo.ldl d).expand = some [.ldw d.toList]) ∧
    (∀ row ∈ fieldNames, (Pseudo.rdfName row.1.toList).expand = some [.rdf row.2]) ∧
    ∀ (wi : BitVec 4) (bi : BitVec 5) (bl : BitVec 8) (s : State), geomOK bi bl = false →
      ∃ t u : State, exec (.mkp wi bi bl) s = .next t ∧ exec .ext t = .next u ∧
        u.responses = s.responses ++ [⟨.geometry, .none, 0⟩, ⟨.noParser, .none, 0⟩]

/-! ### The step -/

/-- A step runs the decoded command: when the words at the head of the host's stream decode to a well-formed command, the
step is `exec` of it at the state whose stream holds what comes after its words (R66, R80). -/
def Obligations.StepRunsDecodedCommand : Prop :=
  ∀ (s : State) (i : Instr) (ws tail : List Word) (rest : List HostEvent),
    i.wellFormed = true → decode ws = .command i tail → s.input = ws.map .word ++ rest →
      step s = exec i { s with input := tail.map .word ++ rest }

/-- R240: the reset event clears `NW`, `PV`, `HV` and the sticky flags, gives no response, leaves the rest of the host's
stream (that queued commands stay is the model's choice, log 6), and leaves a state the host cannot tell from the reset
state. Applied inside an LDW's words it has no move (R240, U9; the named refusal is the model's form of that, log 7). -/
def Obligations.ResetEventResets : Prop :=
  (∀ (s : State) (rest : List HostEvent), s.input = .reset :: rest →
    ∃ t : State, step s = .next t ∧ t.nw = 0 ∧ t.pv = false ∧ t.hv = false ∧ t.ge = false ∧ t.be = false ∧
      t.ie = false ∧ t.np = false ∧ t.nh = false ∧ t.input = rest ∧ t.responses = s.responses ∧
      t.SeenSame { State.reset with input := rest, responses := s.responses }) ∧
    ∀ (s : State) (n : Nat) (first : List Word) (rest : List HostEvent), n ≤ 8 → first.length < n →
      s.input = (selectorWord 0x1 (BitVec.ofNat 4 n) :: first).map .word ++ .reset :: rest →
        step s = .refused .resetInsideCommand

/-- R81: while the stream ends before all the data words of a legal `LDW n` have arrived the machine has no move; once the
rest arrive the LDW is executed with all of them. The named stop is the model's form of "it waits" (log 8). -/
def Obligations.IncompleteLoadWaits : Prop :=
  ∀ (s : State) (n : Nat) (first : List Word), n ≤ 8 → first.length < n →
    s.input = (selectorWord 0x1 (BitVec.ofNat 4 n) :: first).map .word →
      step s = .fault .incompleteLoad ∧
        ∀ others : List Word, first.length + others.length = n →
          step (s.deliver others) = exec (.ldw (first ++ others)) { s with input := [] }

/-- R61, R81: what the host sends later changes nothing of a step that can be taken now; it only stands behind in the
stream. -/
def Obligations.LaterEventsDoNotMatter : Prop :=
  ∀ (s t : State) (later : List HostEvent), step s = .next t →
    step { s with input := s.input ++ later } = .next { t with input := t.input ++ later }

/-- R247: every step that is taken consumes at least one event of the host's stream and leaves exactly the rest, so no
run on a finite stream goes on forever. -/
def Obligations.StepConsumesItsInput : Prop :=
  ∀ s t : State, step s = .next t → ∃ k : Nat, 0 < k ∧ k ≤ s.input.length ∧ t.input = s.input.drop k

/-- R66, R82, R240: a step gives exactly one response, after all earlier ones, except the reset event, which gives none. -/
def Obligations.OneResponsePerCommand : Prop :=
  ∀ s t : State, step s = .next t →
    (s.input.head? = some .reset ∧ t.responses = s.responses) ∨
      (s.input.head? ≠ some .reset ∧ ∃ r : Response, t.responses = s.responses ++ [r])

/-- R20, R212, R247: every command is a total function of state and operands: it always answers a next state. -/
def Obligations.EveryCommandCompletes : Prop :=
  ∀ (i : Instr) (s : State), ∃ t : State, exec i s = .next t

/-! ### The shifter and mask unit -/

/-- R101, R102: SHR32 is division by a power of two, never arithmetic; MASK is `2^n - 1` for every `n` to 32. -/
def Obligations.ShifterAndMaskMeaning : Prop :=
  (∀ (w : Word) (s : BitVec 5), (shr32 w s).toNat = w.toNat / 2 ^ s.toNat ∧
    (∀ b : Nat, b < 32 - s.toNat → (shr32 w s).getLsbD b = w.getLsbD (b + s.toNat)) ∧
    ∀ b : Nat, 32 - s.toNat ≤ b → (shr32 w s).getLsbD b = false) ∧
    ∀ n : Nat, n ≤ 32 → (mask n).toNat = 2 ^ n - 1

/-- R103: for `s + n <= 32`, FIELD32 is `(w div 2^s) mod 2^n`, equally `(w mod 2^(s+n)) div 2^s`, and at most
`2^n - 1`. -/
def Obligations.FieldIsQuotientAndRemainder : Prop :=
  ∀ (w : Word) (s : BitVec 5) (n : Nat), s.toNat + n ≤ 32 →
    field32 w s n = shr32 w s &&& mask n ∧
    (field32 w s n).toNat = w.toNat / 2 ^ s.toNat % 2 ^ n ∧
      (field32 w s n).toNat = w.toNat % 2 ^ (s.toNat + n) / 2 ^ s.toNat ∧ (field32 w s n).toNat ≤ 2 ^ n - 1

/-- R104: CAT64 is `lo + (hi << 32)`, exact, and equal to the bitwise OR. -/
def Obligations.ConcatenationIsExact : Prop :=
  ∀ lo hi : Word, (cat64 lo hi).toNat = lo.toNat + hi.toNat * 2 ^ 32 ∧
    cat64 lo hi = (hi.setWidth 64 <<< 32) + lo.setWidth 64 ∧ cat64 lo hi = (hi.setWidth 64 <<< 32) ||| lo.setWidth 64

/-- R105 (c): when the bit ranges of the fields partition 0 to 31, the fields reassemble the word. -/
def Obligations.FieldsReassembleTheWord : Prop :=
  ∀ (w : Word) (ns : List Nat), (∀ n ∈ ns, 0 < n) → ns.sum = 32 → reassemble w 0 ns = w.toNat

/-! ### The word file and the extractor -/

/-- R53: a read of an index at or beyond `NW` raises `Bounds`, any other gives the word; a two-word read needs both
indices, `i + 1` without wrap, and gives `W[i]` as its bits 31:0. -/
def Obligations.ReadsAreBoundsChecked : Prop :=
  ∀ (s : State) (i : Nat), s.LengthLegal → i ≤ 15 →
    (s.nw.toNat ≤ i → s.memRead1 i = .error .bounds) ∧
      (∀ h : i < 8, i < s.nw.toNat → s.memRead1 i = .ok s.w[i]) ∧
      (s.nw.toNat ≤ i + 1 → s.memRead2 i = .error .bounds) ∧
      ∀ h : i + 1 < 8, i + 1 < s.nw.toNat → s.memRead2 i = .ok (s.w[i + 1] ++ s.w[i])

/-- R121: the geometry rule in arithmetic, and that exactly 560 of the 8192 pairs pass. -/
def Obligations.GeometryRule : Prop :=
  (∀ (bi : BitVec 5) (bl : BitVec 8), geomOK bi bl = true ↔
    (bl.toNat = 64 ∧ bi.toNat = 0) ∨ (bl.toNat ≠ 64 ∧ 0 < bi.toNat + bl.toNat ∧ bi.toNat + bl.toNat ≤ 32)) ∧
    ((List.range 32).map fun bi =>
      ((List.range 256).filter fun bl => geomOK (BitVec.ofNat 5 bi) (BitVec.ofNat 8 bl)).length).sum = 560

/-- R110: LDW loads its data words and their count, keeps the parser, the header and the flags, answers
`(OK, NONE, 0)`; its words are the command word and the data. A count over 8 or a reserved bit makes the word illegal:
then no data word is consumed and nothing is written. -/
def Obligations.LoadWordsMeaning : Prop :=
  (∀ (data : List Word) (s : State), data.length ≤ 8 →
    encode (.ldw data) = BitVec.ofNat 32 (0x10000000 + data.length * 2 ^ 24) :: data ∧
      ∃ t : State, exec (.ldw data) s = .next t ∧ t.nw.toNat = data.length ∧
        (∀ (i : Nat) (h : i < data.length) (h8 : i < 8), t.w[i] = data[i]) ∧
        s.ParserKept t ∧ s.HeaderKept t ∧ s.FlagsKept t ∧ t.input = s.input ∧
        t.responses = s.responses ++ [⟨.ok, .none, 0⟩]) ∧
    ∀ (s : State) (c : Word) (rest : List HostEvent), s.input = .word c :: rest → c.extractLsb' 28 4 = 1 →
      8 < (c.extractLsb' 24 4).toNat ∨ c.extractLsb' 0 24 ≠ 0 →
        step s = .next { s with input := rest, ie := true, responses := s.responses ++ [⟨.illegal, .none, 0⟩] }

/-- R122: MKP latches the descriptor and `PV` when the geometry is good; otherwise `P` is not written, `PV` becomes 0, `GE`
1 and the answer is `GEOMETRY`. Nothing else changes in either case. -/
def Obligations.MakeParserMeaning : Prop :=
  ∀ (wi : BitVec 4) (bi : BitVec 5) (bl : BitVec 8) (s : State),
    encode (.mkp wi bi bl) = [BitVec.ofNat 32 (0x20000000 + wi.toNat * 2 ^ 16 + bi.toNat * 2 ^ 8 + bl.toNat)] ∧
      (geomOK bi bl = true →
        exec (.mkp wi bi bl) s = .next { s with
          p := ⟨wi, bi, bl⟩, pv := true, responses := s.responses ++ [⟨.ok, .none, 0⟩] }) ∧
      (geomOK bi bl = false →
        exec (.mkp wi bi bl) s = .next { s with
          pv := false, ge := true, responses := s.responses ++ [⟨.geometry, .none, 0⟩] })

/-- R124: the extraction function, for a descriptor of good geometry. -/
def Obligations.ExtractMeaning : Prop :=
  ∀ (s : State) (d : Descriptor), s.LengthLegal → geomOK d.bi d.bl = true →
    (∀ h : d.wi.toNat < 8, d.bl ≠ 64 → d.wi.toNat < s.nw.toNat →
      s.extract d = .ok (BitVec.ofNat 64 (s.w[d.wi.toNat].toNat / 2 ^ d.bi.toNat % 2 ^ d.bl.toNat)) ∧
        s.extract d = .ok ((s.w[d.wi.toNat].setWidth 64 >>> d.bi.toNat) &&& (((1 : BitVec 64) <<< d.bl.toNat) - 1))) ∧
      (∀ h : d.wi.toNat + 1 < 8, d.bl = 64 → d.wi.toNat + 1 < s.nw.toNat →
        s.extract d =
          .ok (BitVec.ofNat 64 (s.w[d.wi.toNat].toNat + s.w[d.wi.toNat + 1].toNat * 2 ^ 32))) ∧
      (s.nw.toNat ≤ d.wi.toNat ∨ (d.bl = 64 ∧ s.nw.toNat ≤ d.wi.toNat + 1) → s.extract d = .error .bounds)

/-- R123: EXT answers with what `Extract` gives through `P` and changes no other state; without a parser it raises
`NoParser`, out of range `Bounds`, and then changes only that flag. -/
def Obligations.ExtMeaning : Prop :=
  encode .ext = [0x30000000] ∧
    ∀ s : State, s.LengthLegal →
      (s.pv = false →
        exec .ext s = .next { s with np := true, responses := s.responses ++ [⟨.noParser, .none, 0⟩] }) ∧
        (s.pv = true → (s.nw.toNat ≤ s.p.wi.toNat ∨ (s.p.bl = 64 ∧ s.nw.toNat ≤ s.p.wi.toNat + 1)) →
          exec .ext s = .next { s with be := true, responses := s.responses ++ [⟨.bounds, .none, 0⟩] }) ∧
        (∀ h : s.p.wi.toNat < 8, s.pv = true → s.ParserLegal → s.p.bl ≠ 64 → s.p.wi.toNat < s.nw.toNat →
          exec .ext s = .next { s with
            responses := s.responses ++
              [⟨.ok, .uint, BitVec.ofNat 64 (s.w[s.p.wi.toNat].toNat / 2 ^ s.p.bi.toNat % 2 ^ s.p.bl.toNat)⟩] }) ∧
        (∀ h : s.p.wi.toNat + 1 < 8, s.pv = true → s.p.bl = 64 → s.p.wi.toNat + 1 < s.nw.toNat →
          exec .ext s = .next { s with
            responses := s.responses ++
              [⟨.ok, .uint,
                BitVec.ofNat 64 (s.w[s.p.wi.toNat].toNat + s.w[s.p.wi.toNat + 1].toNat * 2 ^ 32)⟩] })

/-- R125: a zero-length field with `bit_index >= 1` is accepted and extracts 0 from a word that is present; with
`bit_index = 0` it is refused; it raises `Bounds` where the word is absent. No table entry has length 0. -/
def Obligations.ZeroLengthFields : Prop :=
  (∀ k : Fin 12, headerTable[k].bl ≠ 0) ∧ (∀ bi : BitVec 5, geomOK bi 0 = true ↔ bi ≠ 0) ∧
  ∀ (s : State) (wi : BitVec 4) (bi : BitVec 5), s.LengthLegal →
    (bi = 0 → exec (.mkp wi bi 0) s = .next { s with
        pv := false, ge := true, responses := s.responses ++ [⟨.geometry, .none, 0⟩] }) ∧
      (bi ≠ 0 → ∃ t : State, exec (.mkp wi bi 0) s = .next t ∧
        t.responses = s.responses ++ [⟨.ok, .none, 0⟩] ∧
        (wi.toNat < s.nw.toNat → exec .ext t = .next { t with responses := t.responses ++ [⟨.ok, .uint, 0⟩] }) ∧
        (s.nw.toNat ≤ wi.toNat →
          exec .ext t = .next { t with be := true, responses := t.responses ++ [⟨.bounds, .none, 0⟩] }))

/-- R128 (a), (b): MKP then EXT gives the document's formula on the current words. -/
def Obligations.MkpThenExtExtracts : Prop :=
  ∀ (s : State) (wi : BitVec 4) (bi : BitVec 5) (bl : BitVec 8), s.LengthLegal → geomOK bi bl = true →
    (∀ h : wi.toNat < 8, bl ≠ 64 → wi.toNat < s.nw.toNat →
      ∃ t : State, exec (.mkp wi bi bl) s = .next t ∧
        exec .ext t = .next { t with
          responses := s.responses ++ [⟨.ok, .none, 0⟩,
            ⟨.ok, .uint, ((s.w[wi.toNat] >>> bi.toNat) &&& BitVec.ofNat 32 (2 ^ bl.toNat - 1)).setWidth 64⟩] }) ∧
      (∀ h : wi.toNat + 1 < 8, bl = 64 → wi.toNat + 1 < s.nw.toNat →
        ∃ t : State, exec (.mkp wi bi bl) s = .next t ∧
          exec .ext t = .next { t with
            responses := s.responses ++ [⟨.ok, .none, 0⟩,
              ⟨.ok, .uint, BitVec.ofNat 64 (s.w[wi.toNat].toNat + s.w[wi.toNat + 1].toNat * 2 ^ 32)⟩] })

/-! ### The header decoder -/

/-- R144: every table entry passes the geometry check, the sums are the listed ones, and entries that share a word have
disjoint bit ranges. The positions are R143's (PRESUMED, log 16). -/
def Obligations.TableEntriesAreSound : Prop :=
  (∀ k : Fin 12, geomOK headerTable[k].bi headerTable[k].bl = true ∧ 1 ≤ headerTable[k].bl.toNat ∧
    headerTable[k].bl.toNat ≤ 30) ∧
    headerTable.toList.map (fun d => d.bi.toNat + d.bl.toNat) = [30, 31, 32, 24, 30, 24, 29, 32, 16, 26, 31, 32] ∧
    ∀ k m : Fin 12, k ≠ m → headerTable[k].wi = headerTable[m].wi →
      headerTable[k].bi.toNat + headerTable[k].bl.toNat ≤ headerTable[m].bi.toNat ∨
        headerTable[m].bi.toNat + headerTable[m].bl.toNat ≤ headerTable[k].bi.toNat

/-- R141 with the table of R143: with four words or more HDR latches the twelve fields of words 0 to 3 and the sequence
length; with fewer it raises `Bounds` and `HV` becomes 0. Nothing else changes in either case. The word and bit positions
of the twelve fields are R143's, which the spec marks as general knowledge and not from its source (PRESUMED, log 16). -/
def Obligations.HdrMeaning : Prop :=
  encode .hdr = [0x40000000] ∧
    ∀ s : State,
      (4 ≤ s.nw.toNat →
        exec .hdr s = .next { s with
          f := #v[(s.w[0].extractLsb' 0 30).setWidth 32, (s.w[0].extractLsb' 30 1).setWidth 32,
            (s.w[0].extractLsb' 31 1).setWidth 32, (s.w[1].extractLsb' 0 24).setWidth 32,
            (s.w[1].extractLsb' 24 6).setWidth 32, (s.w[2].extractLsb' 0 24).setWidth 32,
            (s.w[2].extractLsb' 24 5).setWidth 32, (s.w[2].extractLsb' 29 3).setWidth 32,
            (s.w[3].extractLsb' 0 16).setWidth 32, (s.w[3].extractLsb' 16 10).setWidth 32,
            (s.w[3].extractLsb' 26 5).setWidth 32, (s.w[3].extractLsb' 31 1).setWidth 32]
          hnw := s.nw, hv := true, responses := s.responses ++ [⟨.ok, .none, 0⟩] }) ∧
        (s.nw.toNat < 4 →
          exec .hdr s = .next { s with
            hv := false, be := true, responses := s.responses ++ [⟨.bounds, .none, 0⟩] })

/-- R142: RDF answers with the raw field register; without a header it raises `NoHeader`; fields 12 to 15 are illegal
words. -/
def Obligations.RdfMeaning : Prop :=
  (∀ (field : BitVec 4) (s : State), ∀ h : field.toNat < 12,
    encode (.rdf field) = [BitVec.ofNat 32 (0x50000000 + field.toNat * 2 ^ 24)] ∧
      (s.hv = true →
        exec (.rdf field) s = .next { s with
          responses := s.responses ++ [⟨.ok, .uint, BitVec.ofNat 64 s.f[field.toNat].toNat⟩] }) ∧
      (s.hv = false →
        exec (.rdf field) s = .next { s with
          nh := true, responses := s.responses ++ [⟨.noHeader, .none, 0⟩] })) ∧
    ∀ n : Nat, 12 ≤ n → n ≤ 15 → decodeWord (BitVec.ofNat 32 (0x50000000 + n * 2 ^ 24)) = .illegal

/-- R148: the round trip. After HDR on at least four words, RDF of entry `k` answers exactly what MKP of that entry's
descriptor and then EXT answer on the same words, which is the general-case formula. The entries are R143's (log 16). -/
def Obligations.HeaderRoundTrip : Prop :=
  ∀ (s : State) (k : Fin 12), s.LengthLegal → 4 ≤ s.nw.toNat → ∀ h : headerTable[k].wi.toNat < 8,
    ∃ t u : State, exec .hdr s = .next t ∧
      exec (.mkp headerTable[k].wi headerTable[k].bi headerTable[k].bl) s = .next u ∧
      let r : Response := ⟨.ok, .uint,
        ((s.w[headerTable[k].wi.toNat] >>> headerTable[k].bi.toNat) &&&
          BitVec.ofNat 32 (2 ^ headerTable[k].bl.toNat - 1)).setWidth 64⟩
      exec (.rdf (BitVec.ofNat 4 k.val)) t = .next { t with responses := t.responses ++ [r] } ∧
        exec .ext u = .next { u with responses := u.responses ++ [r] }

/-- R143, R105 (c): after HDR the field registers hold every bit of words 0, 2 and 3 and bits 29:0 of word 1. The positions
are R143's (PRESUMED, log 16). -/
def Obligations.HeaderFieldsHoldTheWords : Prop :=
  ∀ s : State, 4 ≤ s.nw.toNat → ∃ t : State, exec .hdr s = .next t ∧
    t.f[0].toNat + t.f[1].toNat * 2 ^ 30 + t.f[2].toNat * 2 ^ 31 = s.w[0].toNat ∧
    t.f[3].toNat + t.f[4].toNat * 2 ^ 24 = s.w[1].toNat % 2 ^ 30 ∧
    t.f[5].toNat + t.f[6].toNat * 2 ^ 24 + t.f[7].toNat * 2 ^ 29 = s.w[2].toNat ∧
    t.f[8].toNat + t.f[9].toNat * 2 ^ 16 + t.f[10].toNat * 2 ^ 26 + t.f[11].toNat * 2 ^ 31 = s.w[3].toNat

/-! ### The derived properties -/

/-- R160: without a header every property command raises `NoHeader` and changes nothing else; with one it answers `OK`
and writes nothing; its answer is a function of `F` and, for PLB and NSMP, `HNW`. All are encoded in format S with
opcode 6. -/
def Obligations.PropertyCommandsCommonPart : Prop :=
  ∀ i ∈ propertyCommands,
    (∃ c : Word, encode i = [c] ∧ c.extractLsb' 28 4 = 6 ∧ c.extractLsb' 0 24 = 0) ∧
    (∀ s : State, s.hv = false →
      exec i s = .next { s with nh := true, responses := s.responses ++ [⟨.noHeader, .none, 0⟩] }) ∧
      ∀ s s' : State, s.hv = true → s'.hv = true → s.f = s'.f → (i = .plb ∨ i = .nsmp → s.hnw = s'.hnw) →
        ∃ r : Response, r.status = .ok ∧ exec i s = .next { s with responses := s.responses ++ [r] } ∧
          exec i s' = .next { s' with responses := s'.responses ++ [r] }

/-- R161: BPS is `F[10] + 1`, 1 to 32. -/
def Obligations.BpsMeaning : Prop :=
  encode .bps = [0x60000000] ∧
    ∀ s : State, s.hv = true →
      exec .bps s = .next { s with
        responses := s.responses ++ [⟨.ok, .uint, BitVec.ofNat 64 (s.f[10].toNat + 1)⟩] } ∧
        (s.HeaderLegal → 1 ≤ s.f[10].toNat + 1 ∧ s.f[10].toNat + 1 ≤ 32)

/-- R162: FLB is `F[5] * 8`, at most 134217720. -/
def Obligations.FlbMeaning : Prop :=
  encode .flb = [0x61000000] ∧
    ∀ s : State, s.hv = true →
      exec .flb s = .next { s with
        responses := s.responses ++ [⟨.ok, .uint, BitVec.ofNat 64 (s.f[5].toNat * 8)⟩] } ∧
        (s.HeaderLegal → s.f[5].toNat * 8 ≤ 134217720)

/-- R163: PLB is the integer `F[5] * 8 - HNW * 4` in two's complement; its range; negative exactly when
`F[5] * 2 < HNW`. -/
def Obligations.PlbMeaning : Prop :=
  encode .plb = [0x62000000] ∧
    ∀ s : State, s.hv = true →
      ∃ v : BitVec 64,
        exec .plb s = .next { s with responses := s.responses ++ [⟨.ok, .sint, v⟩] } ∧
          v.toInt = (s.f[5].toNat : Int) * 8 - (s.hnw.toNat : Int) * 4 ∧
          (v.toInt < 0 ↔ s.f[5].toNat * 2 < s.hnw.toNat) ∧ v.toInt % 4 = 0 ∧
          (s.HeaderLegal → -32 ≤ v.toInt ∧ v.toInt ≤ 134217704 ∧ 4 ≤ s.hnw.toNat ∧ s.hnw.toNat ≤ 8)

/-- R164: NCH is `2^F[6]`, 1 to `2^31`, never zero. -/
def Obligations.NchMeaning : Prop :=
  encode .nch = [0x63000000] ∧
    ∀ s : State, s.hv = true → s.HeaderLegal →
      ∃ v : BitVec 64,
        exec .nch s = .next { s with responses := s.responses ++ [⟨.ok, .uint, v⟩] } ∧
          v.toNat = 2 ^ s.f[6].toNat ∧ 1 ≤ v.toNat ∧ v.toNat ≤ 2147483648

/-- R165, R169: NSMP is the product of the payload's words and the values in a word, divided by the channel count; a
negative product is rounded toward zero or toward minus infinity as `NEG_DIV` says. -/
def Obligations.NsmpMeaning : Prop :=
  encode .nsmp = [0x64000000] ∧
    ∀ s : State, s.hv = true → s.HeaderLegal →
      let bps : Nat := s.f[10].toNat + 1
      let c : Nat := if s.f[11].toNat = 1 then 2 else 1
      let vpw : Nat := 32 / bps / c
      let q : Int := (s.f[5].toNat : Int) * 2 - (s.hnw.toNat : Int)
      let nch : Int := 2 ^ s.f[6].toNat
      ∃ v : BitVec 64,
        exec .nsmp s = .next { s with responses := s.responses ++ [⟨.ok, .sint, v⟩] } ∧
          (Config.negDiv = .trunc → v.toInt = (q * vpw).tdiv nch) ∧
          (Config.negDiv = .floor → v.toInt = (q * vpw).fdiv nch) ∧
          (0 ≤ q → v.toInt = (q * vpw) / nch) ∧
          (1 ≤ bps ∧ bps ≤ 32) ∧ vpw ≤ 32 ∧ (-8 ≤ q ∧ q ≤ 33554426) ∧ 1 ≤ nch ∧
          -256 ≤ v.toInt ∧ v.toInt ≤ 1073741632

/-- R169: `sdiv` under both values of `NEG_DIV`: truncated division for `trunc`, floored division for `floor`; the two
agree for a dividend that is not negative, and for every exact division. -/
def Obligations.NegDivRounding : Prop :=
  ∀ (a : Int) (b : Nat), 1 ≤ b →
    sdiv .trunc a b = a.tdiv b ∧ sdiv .floor a b = a.fdiv b ∧
      (0 ≤ a ∨ (b : Int) ∣ a → sdiv .trunc a b = sdiv .floor a b)

/-- R166: STID's tag is `STR2` exactly when the upper byte of the raw field is 48 to 128 inclusive, and `UINT` otherwise;
the value is the raw field in both branches. -/
def Obligations.StidMeaning : Prop :=
  encode .stid = [0x65000000] ∧
    ∀ s : State, s.hv = true →
      (48 ≤ s.f[8].toNat / 256 % 256 ∧ s.f[8].toNat / 256 % 256 ≤ 128 →
        exec .stid s = .next { s with
          responses := s.responses ++ [⟨.ok, .str2, BitVec.ofNat 64 s.f[8].toNat⟩] }) ∧
        (s.f[8].toNat / 256 % 256 < 48 ∨ 128 < s.f[8].toNat / 256 % 256 →
          exec .stid s = .next { s with
            responses := s.responses ++ [⟨.ok, .uint, BitVec.ofNat 64 s.f[8].toNat⟩] })

/-- R167, R168: THID and VER are raw fields, returned unchanged, 0 to 1023 and 0 to 7, the same as RDF 9 and RDF 7. -/
def Obligations.ThidAndVerMeaning : Prop :=
  encode .thid = [0x66000000] ∧ encode .ver = [0x67000000] ∧
    ∀ s : State, s.hv = true →
      exec .thid s = .next { s with responses := s.responses ++ [⟨.ok, .uint, BitVec.ofNat 64 s.f[9].toNat⟩] } ∧
        exec .thid s = exec (.rdf 9) s ∧
        exec .ver s = .next { s with responses := s.responses ++ [⟨.ok, .uint, BitVec.ofNat 64 s.f[7].toNat⟩] } ∧
        exec .ver s = exec (.rdf 7) s ∧
        (s.HeaderLegal → s.f[9].toNat ≤ 1023 ∧ s.f[7].toNat ≤ 7)

/-- R170, R171, R172: ISLEG and ISCPX report their raw bit, ISVAL the inverse of `invalid_flag`. -/
def Obligations.FlagPropertiesMeaning : Prop :=
  encode .isleg = [0x68000000] ∧ encode .iscpx = [0x69000000] ∧ encode .isval = [0x6A000000] ∧
    ∀ s : State, s.hv = true → s.HeaderLegal →
      exec .isleg s = .next { s with
        responses := s.responses ++ [⟨.ok, .bool, BitVec.ofNat 64 s.f[1].toNat⟩] } ∧
        exec .iscpx s = .next { s with
          responses := s.responses ++ [⟨.ok, .bool, BitVec.ofNat 64 s.f[11].toNat⟩] } ∧
        exec .isval s = .next { s with
          responses := s.responses ++ [⟨.ok, .bool, BitVec.ofNat 64 (if s.f[2].toNat = 0 then 1 else 0)⟩] } ∧
        s.f[1].toNat ≤ 1 ∧ s.f[11].toNat ≤ 1 ∧ s.f[2].toNat ≤ 1

/-! ### Status, exceptions and the whole machine -/

/-- R190: RDST answers the status view with the layout of R29 and changes nothing, no sticky flag either; with any of the
bits 27:0 set the word is illegal. -/
def Obligations.RdstMeaning : Prop :=
  encode .rdst = [0x70000000] ∧
    (∀ s : State, ∃ st : Word,
      exec .rdst s = .next { s with responses := s.responses ++ [⟨.ok, .uint, st.setWidth 64⟩] } ∧
        st.extractLsb' 0 4 = s.nw ∧ st.extractLsb' 4 4 = (if s.hv then s.hnw else 0) ∧ st.getLsbD 8 = s.pv ∧
        st.getLsbD 9 = s.hv ∧ st.extractLsb' 10 6 = 0 ∧ st.getLsbD 16 = s.ge ∧ st.getLsbD 17 = s.be ∧
        st.getLsbD 18 = s.ie ∧ st.getLsbD 19 = s.np ∧ st.getLsbD 20 = s.nh ∧ st.extractLsb' 21 11 = 0) ∧
      ∀ c : Word, c.extractLsb' 28 4 = 7 → c.extractLsb' 0 28 ≠ 0 → decodeWord c = .illegal

/-- R82, R83, R84: the 72-bit packing of a response, the status codes 0 to 5 and the tag codes 0 to 4. -/
def Obligations.ResponsePacking : Prop :=
  (∀ r : Response, r.pack.extractLsb' 0 64 = r.value ∧ r.pack.extractLsb' 64 4 = r.tag.code ∧
    r.pack.extractLsb' 68 4 = r.status.code) ∧
    [Status.ok, .geometry, .bounds, .illegal, .noParser, .noHeader].map (·.code.toNat) = [0, 1, 2, 3, 4, 5] ∧
    [Tag.none, .uint, .sint, .str2, .bool].map (·.code.toNat) = [0, 1, 2, 3, 4] ∧
    ∀ r r' : Response, r.pack = r'.pack → r = r'

/-- R210: what raising does, and that it does nothing else: the sticky flag of the exception is set, `PV` is cleared for
MKP and `HV` for HDR, the response is `(status, NONE, 0)`. -/
def Obligations.RaiseHasExactlyItsEffects : Prop :=
  ∀ (s : State) (who : RaisedBy) (x : Exc),
    s.raise who x = { s with
      pv := if who = .mkp then false else s.pv
      hv := if who = .hdr then false else s.hv
      ge := if x = .geometry then true else s.ge
      be := if x = .bounds then true else s.be
      ie := if x = .illegal then true else s.ie
      np := if x = .noParser then true else s.np
      nh := if x = .noHeader then true else s.nh
      responses := s.responses ++ [⟨x.status, .none, 0⟩] }

/-- R30: a sticky flag is set by the raising of its exception and by nothing else, no command clears one, and no command
but RDST depends on one: with other sticky flags it gives the same response. -/
def Obligations.StickyFlagsRecordFaults : Prop :=
  (∀ (i : Instr) (s t : State), exec i s = .next t →
    ∃ r : Response, t.responses = s.responses ++ [r] ∧
      ∀ x : Exc, t.sticky x = (s.sticky x || decide (r.status = x.status))) ∧
    (∀ (s : State) (rest : List HostEvent), s.input = .reset :: rest →
      ∃ t : State, step s = .next t ∧ ∀ x : Exc, t.sticky x = false) ∧
    ∀ (i : Instr) (s : State) (ge be ie np nh : Bool), i ≠ .rdst →
      ∃ t t' : State, exec i s = .next t ∧
        exec i { s with ge := ge, be := be, ie := ie, np := np, nh := nh } = .next t' ∧ t.responses = t'.responses

/-- R207: which exceptions each command can raise, exhaustively. -/
def Obligations.CommandsRaiseOnlyTheirExceptions : Prop :=
  ∀ (i : Instr) (s t : State), i.wellFormed = true → exec i s = .next t →
    ∃ r : Response, t.responses = s.responses ++ [r] ∧ (r.status = .ok ∨ ∃ x ∈ raisable i, r.status = x.status)

/-- R84, R208: the tag of a command's answer: `NONE` with value 0 for LDW, MKP, HDR and every exception; `SINT` for PLB and
NSMP only; `STR2` for STID only. R170 to R173: `BOOL` for ISLEG, ISCPX and ISVAL only, with value 0 or 1 in a legal
header. -/
def Obligations.ResponseTagsByCommand : Prop :=
  ∀ (i : Instr) (s t : State), exec i s = .next t →
    ∃ r : Response, t.responses = s.responses ++ [r] ∧ (r.tag = .none → r.value = 0) ∧
      (r.status ≠ .ok → r.tag = .none) ∧
      ((∃ data, i = .ldw data) ∨ (∃ wi bi bl, i = .mkp wi bi bl) ∨ i = .hdr → r.tag = .none) ∧
      (r.tag = .sint → i = .plb ∨ i = .nsmp) ∧ (r.tag = .str2 → i = .stid) ∧
      (r.tag = .bool → (i = .isleg ∨ i = .iscpx ∨ i = .isval) ∧ (s.HeaderLegal → r.value = 0 ∨ r.value = 1))

/-- R36, R21, R25, R31, R146: over one step the word file changes only by LDW, the parser only by MKP, the decoded header
only by HDR, apart from the reset event. -/
def Obligations.RegistersChangeOnlyByTheirCommand : Prop :=
  ∀ s t : State, step s = .next t → s.input.head? ≠ some .reset →
    (s.WordsKept t ∨ ∃ data rest, fetch s.input = .command (.ldw data) rest) ∧
      (s.ParserKept t ∨ ∃ wi bi bl rest, fetch s.input = .command (.mkp wi bi bl) rest) ∧
      (s.HeaderKept t ∨ ∃ rest, fetch s.input = .command .hdr rest)

/-- R35: the state after reset: `NW`, `PV`, `HV` and the sticky flags are 0, and `ST` reads 0. -/
def Obligations.StateAfterReset : Prop :=
  State.reset.nw = 0 ∧ State.reset.pv = false ∧ State.reset.hv = false ∧ State.reset.ge = false ∧
    State.reset.be = false ∧ State.reset.ie = false ∧ State.reset.np = false ∧ State.reset.nh = false ∧
    State.reset.statusView = 0x00000000

/-- The reset state is legal (R22, R26, R28, R31). -/
def Obligations.ResetStateIsLegal : Prop := State.reset.Inv

/-- R22, R26, R28, R31, R163: every step from a legal state leads to a legal state: `NW` stays 0 to 8, a valid parser
passes the geometry check, a valid header has 4 to 8 words and fields of their table widths. -/
def Obligations.EveryStepKeepsStateLegal : Prop :=
  ∀ s t : State, s.Inv → step s = .next t → t.Inv

/-- R23, R26, R28, R35: no step lets the host see what is unspecified: from two states that differ only in `W[NW..7]`, in
`P` while `PV = 0`, and in `F` and `HNW` while `HV = 0`, the step gives the same kind of outcome, the same responses, and
states that again differ only so. -/
def Obligations.UnspecifiedRegistersAreUnobservable : Prop :=
  ∀ s t : State, s.SeenSame t → SeenSameOutcome (step s) (step t)
end

