-- ==== Sys2Proof/Laws/Bits.lean ====
section
/-! SUPPORT. The bits and the numbers of the words and values that are put together from fields: CAT64 (R104), the command
words (R70, R71), a response's packing (R82), a byte stream's words (R55). -/

namespace Sys2Proof.Machine

theorem cat64_getLsbD (lo hi : Word) (i : Nat) :
    (cat64 lo hi).getLsbD i = if i < 32 then lo.getLsbD i else hi.getLsbD (i - 32) :=
  BitVec.getLsbD_append

theorem zext64_eq_ofNat (w : Word) : zext64 w = BitVec.ofNat 64 w.toNat := by
  apply BitVec.eq_of_toNat_eq
  simp [zext64]

/-- A concatenation as a number: the upper part is worth `2^k` a unit. -/
theorem shiftLeft_or_eq_add (a b k : Nat) (h : b < 2 ^ k) : a <<< k ||| b = a * 2 ^ k + b := by
  rw [Nat.shiftLeft_eq, Nat.mul_comm, ← Nat.two_pow_add_eq_or_of_lt h]

theorem selectorWord_toNat (op sel : BitVec 4) :
    (selectorWord op sel).toNat = op.toNat * 2 ^ 28 + sel.toNat * 2 ^ 24 := by
  have e : (selectorWord op sel).toNat = (op ++ sel).toNat <<< 24 ||| 0 := BitVec.toNat_append _ _
  have e' : (op ++ sel).toNat = op.toNat <<< 4 ||| sel.toNat := BitVec.toNat_append _ _
  rw [e, shiftLeft_or_eq_add _ _ _ (by omega), e', shiftLeft_or_eq_add _ _ _ sel.isLt]
  omega

theorem descriptorWord_toNat (wi : BitVec 4) (bi : BitVec 5) (bl : BitVec 8) :
    (descriptorWord wi bi bl).toNat = 2 * 2 ^ 28 + wi.toNat * 2 ^ 16 + bi.toNat * 2 ^ 8 + bl.toNat := by
  have e : (descriptorWord wi bi bl).toNat =
      (0x2#4 ++ 0#4 ++ 0#4 ++ wi ++ 0#3 ++ bi).toNat <<< 8 ||| bl.toNat := BitVec.toNat_append _ _
  have e1 : (0x2#4 ++ 0#4 ++ 0#4 ++ wi ++ 0#3 ++ bi).toNat =
      (0x2#4 ++ 0#4 ++ 0#4 ++ wi ++ 0#3).toNat <<< 5 ||| bi.toNat := BitVec.toNat_append _ _
  have e2 : (0x2#4 ++ 0#4 ++ 0#4 ++ wi ++ 0#3).toNat = (0x2#4 ++ 0#4 ++ 0#4 ++ wi).toNat <<< 3 ||| 0 :=
    BitVec.toNat_append _ _
  have e3 : (0x2#4 ++ 0#4 ++ 0#4 ++ wi).toNat = 0x200 <<< 4 ||| wi.toNat := BitVec.toNat_append _ _
  rw [e, shiftLeft_or_eq_add _ _ _ bl.isLt, e1, shiftLeft_or_eq_add _ _ _ bi.isLt, e2,
    shiftLeft_or_eq_add _ _ _ (by omega), e3, shiftLeft_or_eq_add _ _ _ wi.isLt]
  omega

/-- A response's packing as a number (R82). -/
theorem pack_toNat (r : Response) :
    r.pack.toNat = r.status.code.toNat * 2 ^ 68 + r.tag.code.toNat * 2 ^ 64 + r.value.toNat := by
  have e : r.pack.toNat = (r.status.code ++ r.tag.code).toNat <<< 64 ||| r.value.toNat := BitVec.toNat_append _ _
  have e1 : (r.status.code ++ r.tag.code).toNat = r.status.code.toNat <<< 4 ||| r.tag.code.toNat :=
    BitVec.toNat_append _ _
  rw [e, shiftLeft_or_eq_add _ _ _ r.value.isLt, e1, shiftLeft_or_eq_add _ _ _ r.tag.code.isLt]
  omega

/-- The number a word of four bytes is, low byte first (R55). -/
theorem wordOfBytes_toNat (b0 b1 b2 b3 : Byte) :
    (wordOfBytes b0 b1 b2 b3).toNat = b0.toNat + b1.toNat * 2 ^ 8 + b2.toNat * 2 ^ 16 + b3.toNat * 2 ^ 24 := by
  have e : (wordOfBytes b0 b1 b2 b3).toNat = (b3 ++ b2 ++ b1).toNat <<< 8 ||| b0.toNat := BitVec.toNat_append _ _
  have e1 : (b3 ++ b2 ++ b1).toNat = (b3 ++ b2).toNat <<< 8 ||| b1.toNat := BitVec.toNat_append _ _
  have e2 : (b3 ++ b2).toNat = b3.toNat <<< 8 ||| b2.toNat := BitVec.toNat_append _ _
  rw [e, shiftLeft_or_eq_add _ _ _ b0.isLt, e1, shiftLeft_or_eq_add _ _ _ b1.isLt, e2,
    shiftLeft_or_eq_add _ _ _ b2.isLt]
  omega

/-- The fields of a command word as numbers (R70, R71). -/
theorem opField_toNat (c : Word) : (opField c).toNat = c.toNat / 2 ^ 28 % 16 := by
  simp [opField, Nat.shiftRight_eq_div_pow]

theorem selField_toNat (c : Word) : (selField c).toNat = c.toNat / 2 ^ 24 % 16 := by
  simp [selField, Nat.shiftRight_eq_div_pow]

theorem wiField_toNat (c : Word) : (wiField c).toNat = c.toNat / 2 ^ 16 % 16 := by
  simp [wiField, Nat.shiftRight_eq_div_pow]

theorem biField_toNat (c : Word) : (biField c).toNat = c.toNat / 2 ^ 8 % 32 := by
  simp [biField, Nat.shiftRight_eq_div_pow]

theorem blField_toNat (c : Word) : (blField c).toNat = c.toNat % 256 := by
  simp [blField]

end Sys2Proof.Machine
end

