-- ==== Sys2Proof/Laws/State.lean ====
section
/-! SUPPORT. What each named update of the state leaves in each field: one lemma per field per update, so that no later
proof unfolds a record update. -/

namespace Sys2Proof.Machine

/-! ### `State.emit` -/

@[simp] theorem State.emit_w (r : Response) (s : State) : (s.emit r).w = s.w := rfl
@[simp] theorem State.emit_nw (r : Response) (s : State) : (s.emit r).nw = s.nw := rfl
@[simp] theorem State.emit_p (r : Response) (s : State) : (s.emit r).p = s.p := rfl
@[simp] theorem State.emit_pv (r : Response) (s : State) : (s.emit r).pv = s.pv := rfl
@[simp] theorem State.emit_f (r : Response) (s : State) : (s.emit r).f = s.f := rfl
@[simp] theorem State.emit_hnw (r : Response) (s : State) : (s.emit r).hnw = s.hnw := rfl
@[simp] theorem State.emit_hv (r : Response) (s : State) : (s.emit r).hv = s.hv := rfl
@[simp] theorem State.emit_ge (r : Response) (s : State) : (s.emit r).ge = s.ge := rfl
@[simp] theorem State.emit_be (r : Response) (s : State) : (s.emit r).be = s.be := rfl
@[simp] theorem State.emit_ie (r : Response) (s : State) : (s.emit r).ie = s.ie := rfl
@[simp] theorem State.emit_np (r : Response) (s : State) : (s.emit r).np = s.np := rfl
@[simp] theorem State.emit_nh (r : Response) (s : State) : (s.emit r).nh = s.nh := rfl
@[simp] theorem State.emit_input (r : Response) (s : State) : (s.emit r).input = s.input := rfl
@[simp] theorem State.emit_responses (r : Response) (s : State) : (s.emit r).responses = s.responses ++ [r] := rfl
@[simp] theorem State.emit_freeNext (r : Response) (s : State) : (s.emit r).freeNext = s.freeNext := rfl

/-! ### `State.respond` -/

@[simp] theorem State.respond_w (tag : Tag) (value : Value) (s : State) : (s.respond tag value).w = s.w := rfl
@[simp] theorem State.respond_nw (tag : Tag) (value : Value) (s : State) : (s.respond tag value).nw = s.nw := rfl
@[simp] theorem State.respond_p (tag : Tag) (value : Value) (s : State) : (s.respond tag value).p = s.p := rfl
@[simp] theorem State.respond_pv (tag : Tag) (value : Value) (s : State) : (s.respond tag value).pv = s.pv := rfl
@[simp] theorem State.respond_f (tag : Tag) (value : Value) (s : State) : (s.respond tag value).f = s.f := rfl
@[simp] theorem State.respond_hnw (tag : Tag) (value : Value) (s : State) : (s.respond tag value).hnw = s.hnw := rfl
@[simp] theorem State.respond_hv (tag : Tag) (value : Value) (s : State) : (s.respond tag value).hv = s.hv := rfl
@[simp] theorem State.respond_ge (tag : Tag) (value : Value) (s : State) : (s.respond tag value).ge = s.ge := rfl
@[simp] theorem State.respond_be (tag : Tag) (value : Value) (s : State) : (s.respond tag value).be = s.be := rfl
@[simp] theorem State.respond_ie (tag : Tag) (value : Value) (s : State) : (s.respond tag value).ie = s.ie := rfl
@[simp] theorem State.respond_np (tag : Tag) (value : Value) (s : State) : (s.respond tag value).np = s.np := rfl
@[simp] theorem State.respond_nh (tag : Tag) (value : Value) (s : State) : (s.respond tag value).nh = s.nh := rfl
@[simp] theorem State.respond_input (tag : Tag) (value : Value) (s : State) :
    (s.respond tag value).input = s.input := rfl
@[simp] theorem State.respond_responses (tag : Tag) (value : Value) (s : State) :
    (s.respond tag value).responses = s.responses ++ [⟨.ok, tag, value⟩] := rfl
@[simp] theorem State.respond_freeNext (tag : Tag) (value : Value) (s : State) :
    (s.respond tag value).freeNext = s.freeNext := rfl

/-! ### `State.respondNone` -/

@[simp] theorem State.respondNone_w (s : State) : (s.respondNone).w = s.w := rfl
@[simp] theorem State.respondNone_nw (s : State) : (s.respondNone).nw = s.nw := rfl
@[simp] theorem State.respondNone_p (s : State) : (s.respondNone).p = s.p := rfl
@[simp] theorem State.respondNone_pv (s : State) : (s.respondNone).pv = s.pv := rfl
@[simp] theorem State.respondNone_f (s : State) : (s.respondNone).f = s.f := rfl
@[simp] theorem State.respondNone_hnw (s : State) : (s.respondNone).hnw = s.hnw := rfl
@[simp] theorem State.respondNone_hv (s : State) : (s.respondNone).hv = s.hv := rfl
@[simp] theorem State.respondNone_ge (s : State) : (s.respondNone).ge = s.ge := rfl
@[simp] theorem State.respondNone_be (s : State) : (s.respondNone).be = s.be := rfl
@[simp] theorem State.respondNone_ie (s : State) : (s.respondNone).ie = s.ie := rfl
@[simp] theorem State.respondNone_np (s : State) : (s.respondNone).np = s.np := rfl
@[simp] theorem State.respondNone_nh (s : State) : (s.respondNone).nh = s.nh := rfl
@[simp] theorem State.respondNone_input (s : State) : (s.respondNone).input = s.input := rfl
@[simp] theorem State.respondNone_responses (s : State) :
    (s.respondNone).responses = s.responses ++ [⟨.ok, .none, 0⟩] := rfl
@[simp] theorem State.respondNone_freeNext (s : State) : (s.respondNone).freeNext = s.freeNext := rfl

/-! ### `State.clearValid` -/

@[simp] theorem State.clearValid_w (who : RaisedBy) (s : State) : (s.clearValid who).w = s.w := by cases who <;> rfl
@[simp] theorem State.clearValid_nw (who : RaisedBy) (s : State) :
    (s.clearValid who).nw = s.nw := by cases who <;> rfl
@[simp] theorem State.clearValid_p (who : RaisedBy) (s : State) : (s.clearValid who).p = s.p := by cases who <;> rfl
@[simp] theorem State.clearValid_pv (who : RaisedBy) (s : State) :
    (s.clearValid who).pv = (s.pv && decide (who ≠ .mkp)) := by cases who <;> simp [State.clearValid]
@[simp] theorem State.clearValid_f (who : RaisedBy) (s : State) : (s.clearValid who).f = s.f := by cases who <;> rfl
@[simp] theorem State.clearValid_hnw (who : RaisedBy) (s : State) :
    (s.clearValid who).hnw = s.hnw := by cases who <;> rfl
@[simp] theorem State.clearValid_hv (who : RaisedBy) (s : State) :
    (s.clearValid who).hv = (s.hv && decide (who ≠ .hdr)) := by cases who <;> simp [State.clearValid]
@[simp] theorem State.clearValid_ge (who : RaisedBy) (s : State) :
    (s.clearValid who).ge = s.ge := by cases who <;> rfl
@[simp] theorem State.clearValid_be (who : RaisedBy) (s : State) :
    (s.clearValid who).be = s.be := by cases who <;> rfl
@[simp] theorem State.clearValid_ie (who : RaisedBy) (s : State) :
    (s.clearValid who).ie = s.ie := by cases who <;> rfl
@[simp] theorem State.clearValid_np (who : RaisedBy) (s : State) :
    (s.clearValid who).np = s.np := by cases who <;> rfl
@[simp] theorem State.clearValid_nh (who : RaisedBy) (s : State) :
    (s.clearValid who).nh = s.nh := by cases who <;> rfl
@[simp] theorem State.clearValid_input (who : RaisedBy) (s : State) :
    (s.clearValid who).input = s.input := by cases who <;> rfl
@[simp] theorem State.clearValid_responses (who : RaisedBy) (s : State) :
    (s.clearValid who).responses = s.responses := by cases who <;> rfl
@[simp] theorem State.clearValid_freeNext (who : RaisedBy) (s : State) :
    (s.clearValid who).freeNext = s.freeNext := by cases who <;> rfl

/-! ### `State.setSticky` -/

@[simp] theorem State.setSticky_w (x : Exc) (s : State) : (s.setSticky x).w = s.w := by cases x <;> rfl
@[simp] theorem State.setSticky_nw (x : Exc) (s : State) : (s.setSticky x).nw = s.nw := by cases x <;> rfl
@[simp] theorem State.setSticky_p (x : Exc) (s : State) : (s.setSticky x).p = s.p := by cases x <;> rfl
@[simp] theorem State.setSticky_pv (x : Exc) (s : State) : (s.setSticky x).pv = s.pv := by cases x <;> rfl
@[simp] theorem State.setSticky_f (x : Exc) (s : State) : (s.setSticky x).f = s.f := by cases x <;> rfl
@[simp] theorem State.setSticky_hnw (x : Exc) (s : State) : (s.setSticky x).hnw = s.hnw := by cases x <;> rfl
@[simp] theorem State.setSticky_hv (x : Exc) (s : State) : (s.setSticky x).hv = s.hv := by cases x <;> rfl
@[simp] theorem State.setSticky_ge (x : Exc) (s : State) :
    (s.setSticky x).ge = (s.ge || decide (x = .geometry)) := by cases x <;> simp [State.setSticky]
@[simp] theorem State.setSticky_be (x : Exc) (s : State) :
    (s.setSticky x).be = (s.be || decide (x = .bounds)) := by cases x <;> simp [State.setSticky]
@[simp] theorem State.setSticky_ie (x : Exc) (s : State) :
    (s.setSticky x).ie = (s.ie || decide (x = .illegal)) := by cases x <;> simp [State.setSticky]
@[simp] theorem State.setSticky_np (x : Exc) (s : State) :
    (s.setSticky x).np = (s.np || decide (x = .noParser)) := by cases x <;> simp [State.setSticky]
@[simp] theorem State.setSticky_nh (x : Exc) (s : State) :
    (s.setSticky x).nh = (s.nh || decide (x = .noHeader)) := by cases x <;> simp [State.setSticky]
@[simp] theorem State.setSticky_input (x : Exc) (s : State) : (s.setSticky x).input = s.input := by cases x <;> rfl
@[simp] theorem State.setSticky_responses (x : Exc) (s : State) :
    (s.setSticky x).responses = s.responses := by cases x <;> rfl
@[simp] theorem State.setSticky_freeNext (x : Exc) (s : State) :
    (s.setSticky x).freeNext = s.freeNext := by cases x <;> rfl

/-! ### `State.raise` -/

@[simp] theorem State.raise_w (who : RaisedBy) (x : Exc) (s : State) :
    (s.raise who x).w = s.w := by simp [State.raise]
@[simp] theorem State.raise_nw (who : RaisedBy) (x : Exc) (s : State) :
    (s.raise who x).nw = s.nw := by simp [State.raise]
@[simp] theorem State.raise_p (who : RaisedBy) (x : Exc) (s : State) :
    (s.raise who x).p = s.p := by simp [State.raise]
@[simp] theorem State.raise_pv (who : RaisedBy) (x : Exc) (s : State) :
    (s.raise who x).pv = (s.pv && decide (who ≠ .mkp)) := by simp [State.raise]
@[simp] theorem State.raise_f (who : RaisedBy) (x : Exc) (s : State) :
    (s.raise who x).f = s.f := by simp [State.raise]
@[simp] theorem State.raise_hnw (who : RaisedBy) (x : Exc) (s : State) :
    (s.raise who x).hnw = s.hnw := by simp [State.raise]
@[simp] theorem State.raise_hv (who : RaisedBy) (x : Exc) (s : State) :
    (s.raise who x).hv = (s.hv && decide (who ≠ .hdr)) := by simp [State.raise]
@[simp] theorem State.raise_ge (who : RaisedBy) (x : Exc) (s : State) :
    (s.raise who x).ge = (s.ge || decide (x = .geometry)) := by simp [State.raise]
@[simp] theorem State.raise_be (who : RaisedBy) (x : Exc) (s : State) :
    (s.raise who x).be = (s.be || decide (x = .bounds)) := by simp [State.raise]
@[simp] theorem State.raise_ie (who : RaisedBy) (x : Exc) (s : State) :
    (s.raise who x).ie = (s.ie || decide (x = .illegal)) := by simp [State.raise]
@[simp] theorem State.raise_np (who : RaisedBy) (x : Exc) (s : State) :
    (s.raise who x).np = (s.np || decide (x = .noParser)) := by simp [State.raise]
@[simp] theorem State.raise_nh (who : RaisedBy) (x : Exc) (s : State) :
    (s.raise who x).nh = (s.nh || decide (x = .noHeader)) := by simp [State.raise]
@[simp] theorem State.raise_input (who : RaisedBy) (x : Exc) (s : State) :
    (s.raise who x).input = s.input := by simp [State.raise]
@[simp] theorem State.raise_responses (who : RaisedBy) (x : Exc) (s : State) :
    (s.raise who x).responses = s.responses ++ [⟨x.status, .none, 0⟩] := by simp [State.raise]
@[simp] theorem State.raise_freeNext (who : RaisedBy) (x : Exc) (s : State) :
    (s.raise who x).freeNext = s.freeNext := by simp [State.raise]

/-! ### `State.loadSequence` -/

@[simp] theorem State.loadSequence_w (data : List Word) (s : State) :
    (s.loadSequence data).w = Vector.ofFn fun i : Fin 8 => loadedWord data s.freeNext i.val := rfl
@[simp] theorem State.loadSequence_nw (data : List Word) (s : State) :
    (s.loadSequence data).nw = BitVec.ofNat 4 data.length := rfl
@[simp] theorem State.loadSequence_p (data : List Word) (s : State) : (s.loadSequence data).p = s.p := rfl
@[simp] theorem State.loadSequence_pv (data : List Word) (s : State) : (s.loadSequence data).pv = s.pv := rfl
@[simp] theorem State.loadSequence_f (data : List Word) (s : State) : (s.loadSequence data).f = s.f := rfl
@[simp] theorem State.loadSequence_hnw (data : List Word) (s : State) : (s.loadSequence data).hnw = s.hnw := rfl
@[simp] theorem State.loadSequence_hv (data : List Word) (s : State) : (s.loadSequence data).hv = s.hv := rfl
@[simp] theorem State.loadSequence_ge (data : List Word) (s : State) : (s.loadSequence data).ge = s.ge := rfl
@[simp] theorem State.loadSequence_be (data : List Word) (s : State) : (s.loadSequence data).be = s.be := rfl
@[simp] theorem State.loadSequence_ie (data : List Word) (s : State) : (s.loadSequence data).ie = s.ie := rfl
@[simp] theorem State.loadSequence_np (data : List Word) (s : State) : (s.loadSequence data).np = s.np := rfl
@[simp] theorem State.loadSequence_nh (data : List Word) (s : State) : (s.loadSequence data).nh = s.nh := rfl
@[simp] theorem State.loadSequence_input (data : List Word) (s : State) : (s.loadSequence data).input = s.input := rfl
@[simp] theorem State.loadSequence_responses (data : List Word) (s : State) :
    (s.loadSequence data).responses = s.responses := rfl
@[simp] theorem State.loadSequence_freeNext (data : List Word) (s : State) :
    (s.loadSequence data).freeNext = s.freeNext + 8 := rfl

/-! ### `State.setParser` -/

@[simp] theorem State.setParser_w (d : Descriptor) (s : State) : (s.setParser d).w = s.w := rfl
@[simp] theorem State.setParser_nw (d : Descriptor) (s : State) : (s.setParser d).nw = s.nw := rfl
@[simp] theorem State.setParser_p (d : Descriptor) (s : State) : (s.setParser d).p = d := rfl
@[simp] theorem State.setParser_pv (d : Descriptor) (s : State) : (s.setParser d).pv = true := rfl
@[simp] theorem State.setParser_f (d : Descriptor) (s : State) : (s.setParser d).f = s.f := rfl
@[simp] theorem State.setParser_hnw (d : Descriptor) (s : State) : (s.setParser d).hnw = s.hnw := rfl
@[simp] theorem State.setParser_hv (d : Descriptor) (s : State) : (s.setParser d).hv = s.hv := rfl
@[simp] theorem State.setParser_ge (d : Descriptor) (s : State) : (s.setParser d).ge = s.ge := rfl
@[simp] theorem State.setParser_be (d : Descriptor) (s : State) : (s.setParser d).be = s.be := rfl
@[simp] theorem State.setParser_ie (d : Descriptor) (s : State) : (s.setParser d).ie = s.ie := rfl
@[simp] theorem State.setParser_np (d : Descriptor) (s : State) : (s.setParser d).np = s.np := rfl
@[simp] theorem State.setParser_nh (d : Descriptor) (s : State) : (s.setParser d).nh = s.nh := rfl
@[simp] theorem State.setParser_input (d : Descriptor) (s : State) : (s.setParser d).input = s.input := rfl
@[simp] theorem State.setParser_responses (d : Descriptor) (s : State) :
    (s.setParser d).responses = s.responses := rfl
@[simp] theorem State.setParser_freeNext (d : Descriptor) (s : State) : (s.setParser d).freeNext = s.freeNext := rfl

/-! ### `State.latchHeader` -/

@[simp] theorem State.latchHeader_w (ts : List Word) (s : State) : (s.latchHeader ts).w = s.w := rfl
@[simp] theorem State.latchHeader_nw (ts : List Word) (s : State) : (s.latchHeader ts).nw = s.nw := rfl
@[simp] theorem State.latchHeader_p (ts : List Word) (s : State) : (s.latchHeader ts).p = s.p := rfl
@[simp] theorem State.latchHeader_pv (ts : List Word) (s : State) : (s.latchHeader ts).pv = s.pv := rfl
@[simp] theorem State.latchHeader_f (ts : List Word) (s : State) :
    (s.latchHeader ts).f = Vector.ofFn fun k : Fin 12 => ts.getD k.val 0 := rfl
@[simp] theorem State.latchHeader_hnw (ts : List Word) (s : State) : (s.latchHeader ts).hnw = s.nw := rfl
@[simp] theorem State.latchHeader_hv (ts : List Word) (s : State) : (s.latchHeader ts).hv = true := rfl
@[simp] theorem State.latchHeader_ge (ts : List Word) (s : State) : (s.latchHeader ts).ge = s.ge := rfl
@[simp] theorem State.latchHeader_be (ts : List Word) (s : State) : (s.latchHeader ts).be = s.be := rfl
@[simp] theorem State.latchHeader_ie (ts : List Word) (s : State) : (s.latchHeader ts).ie = s.ie := rfl
@[simp] theorem State.latchHeader_np (ts : List Word) (s : State) : (s.latchHeader ts).np = s.np := rfl
@[simp] theorem State.latchHeader_nh (ts : List Word) (s : State) : (s.latchHeader ts).nh = s.nh := rfl
@[simp] theorem State.latchHeader_input (ts : List Word) (s : State) : (s.latchHeader ts).input = s.input := rfl
@[simp] theorem State.latchHeader_responses (ts : List Word) (s : State) :
    (s.latchHeader ts).responses = s.responses := rfl
@[simp] theorem State.latchHeader_freeNext (ts : List Word) (s : State) :
    (s.latchHeader ts).freeNext = s.freeNext := rfl

/-! ### `State.hostReset` -/

@[simp] theorem State.hostReset_w (s : State) :
    (s.hostReset).w = Vector.ofFn fun i : Fin 8 => Config.freeWord (s.freeNext + i.val) := rfl
@[simp] theorem State.hostReset_nw (s : State) : (s.hostReset).nw = 0 := rfl
@[simp] theorem State.hostReset_p (s : State) :
    (s.hostReset).p = ⟨(Config.freeWord (s.freeNext + 20)).setWidth 4, (Config.freeWord (s.freeNext + 21)).setWidth 5,
      (Config.freeWord (s.freeNext + 22)).setWidth 8⟩ := rfl
@[simp] theorem State.hostReset_pv (s : State) : (s.hostReset).pv = false := rfl
@[simp] theorem State.hostReset_f (s : State) :
    (s.hostReset).f = Vector.ofFn fun k : Fin 12 => Config.freeWord (s.freeNext + 8 + k.val) := rfl
@[simp] theorem State.hostReset_hnw (s : State) :
    (s.hostReset).hnw = (Config.freeWord (s.freeNext + 23)).setWidth 4 := rfl
@[simp] theorem State.hostReset_hv (s : State) : (s.hostReset).hv = false := rfl
@[simp] theorem State.hostReset_ge (s : State) : (s.hostReset).ge = false := rfl
@[simp] theorem State.hostReset_be (s : State) : (s.hostReset).be = false := rfl
@[simp] theorem State.hostReset_ie (s : State) : (s.hostReset).ie = false := rfl
@[simp] theorem State.hostReset_np (s : State) : (s.hostReset).np = false := rfl
@[simp] theorem State.hostReset_nh (s : State) : (s.hostReset).nh = false := rfl
@[simp] theorem State.hostReset_input (s : State) : (s.hostReset).input = s.input := rfl
@[simp] theorem State.hostReset_responses (s : State) : (s.hostReset).responses = s.responses := rfl
@[simp] theorem State.hostReset_freeNext (s : State) : (s.hostReset).freeNext = s.freeNext + 24 := rfl

/-! ### `State.deliver` -/

@[simp] theorem State.deliver_w (ws : List Word) (s : State) : (s.deliver ws).w = s.w := rfl
@[simp] theorem State.deliver_nw (ws : List Word) (s : State) : (s.deliver ws).nw = s.nw := rfl
@[simp] theorem State.deliver_p (ws : List Word) (s : State) : (s.deliver ws).p = s.p := rfl
@[simp] theorem State.deliver_pv (ws : List Word) (s : State) : (s.deliver ws).pv = s.pv := rfl
@[simp] theorem State.deliver_f (ws : List Word) (s : State) : (s.deliver ws).f = s.f := rfl
@[simp] theorem State.deliver_hnw (ws : List Word) (s : State) : (s.deliver ws).hnw = s.hnw := rfl
@[simp] theorem State.deliver_hv (ws : List Word) (s : State) : (s.deliver ws).hv = s.hv := rfl
@[simp] theorem State.deliver_ge (ws : List Word) (s : State) : (s.deliver ws).ge = s.ge := rfl
@[simp] theorem State.deliver_be (ws : List Word) (s : State) : (s.deliver ws).be = s.be := rfl
@[simp] theorem State.deliver_ie (ws : List Word) (s : State) : (s.deliver ws).ie = s.ie := rfl
@[simp] theorem State.deliver_np (ws : List Word) (s : State) : (s.deliver ws).np = s.np := rfl
@[simp] theorem State.deliver_nh (ws : List Word) (s : State) : (s.deliver ws).nh = s.nh := rfl
@[simp] theorem State.deliver_input (ws : List Word) (s : State) :
    (s.deliver ws).input = s.input ++ ws.map .word := rfl
@[simp] theorem State.deliver_responses (ws : List Word) (s : State) : (s.deliver ws).responses = s.responses := rfl
@[simp] theorem State.deliver_freeNext (ws : List Word) (s : State) : (s.deliver ws).freeNext = s.freeNext := rfl

/-! ### `State.requestReset` -/

@[simp] theorem State.requestReset_w (s : State) : (s.requestReset).w = s.w := rfl
@[simp] theorem State.requestReset_nw (s : State) : (s.requestReset).nw = s.nw := rfl
@[simp] theorem State.requestReset_p (s : State) : (s.requestReset).p = s.p := rfl
@[simp] theorem State.requestReset_pv (s : State) : (s.requestReset).pv = s.pv := rfl
@[simp] theorem State.requestReset_f (s : State) : (s.requestReset).f = s.f := rfl
@[simp] theorem State.requestReset_hnw (s : State) : (s.requestReset).hnw = s.hnw := rfl
@[simp] theorem State.requestReset_hv (s : State) : (s.requestReset).hv = s.hv := rfl
@[simp] theorem State.requestReset_ge (s : State) : (s.requestReset).ge = s.ge := rfl
@[simp] theorem State.requestReset_be (s : State) : (s.requestReset).be = s.be := rfl
@[simp] theorem State.requestReset_ie (s : State) : (s.requestReset).ie = s.ie := rfl
@[simp] theorem State.requestReset_np (s : State) : (s.requestReset).np = s.np := rfl
@[simp] theorem State.requestReset_nh (s : State) : (s.requestReset).nh = s.nh := rfl
@[simp] theorem State.requestReset_input (s : State) : (s.requestReset).input = s.input ++ [.reset] := rfl
@[simp] theorem State.requestReset_responses (s : State) : (s.requestReset).responses = s.responses := rfl
@[simp] theorem State.requestReset_freeNext (s : State) : (s.requestReset).freeNext = s.freeNext := rfl

/-! ### `State.takeInput` -/

@[simp] theorem State.takeInput_w (rest : List HostEvent) (s : State) : (s.takeInput rest).w = s.w := rfl
@[simp] theorem State.takeInput_nw (rest : List HostEvent) (s : State) : (s.takeInput rest).nw = s.nw := rfl
@[simp] theorem State.takeInput_p (rest : List HostEvent) (s : State) : (s.takeInput rest).p = s.p := rfl
@[simp] theorem State.takeInput_pv (rest : List HostEvent) (s : State) : (s.takeInput rest).pv = s.pv := rfl
@[simp] theorem State.takeInput_f (rest : List HostEvent) (s : State) : (s.takeInput rest).f = s.f := rfl
@[simp] theorem State.takeInput_hnw (rest : List HostEvent) (s : State) : (s.takeInput rest).hnw = s.hnw := rfl
@[simp] theorem State.takeInput_hv (rest : List HostEvent) (s : State) : (s.takeInput rest).hv = s.hv := rfl
@[simp] theorem State.takeInput_ge (rest : List HostEvent) (s : State) : (s.takeInput rest).ge = s.ge := rfl
@[simp] theorem State.takeInput_be (rest : List HostEvent) (s : State) : (s.takeInput rest).be = s.be := rfl
@[simp] theorem State.takeInput_ie (rest : List HostEvent) (s : State) : (s.takeInput rest).ie = s.ie := rfl
@[simp] theorem State.takeInput_np (rest : List HostEvent) (s : State) : (s.takeInput rest).np = s.np := rfl
@[simp] theorem State.takeInput_nh (rest : List HostEvent) (s : State) : (s.takeInput rest).nh = s.nh := rfl
@[simp] theorem State.takeInput_input (rest : List HostEvent) (s : State) : (s.takeInput rest).input = rest := rfl
@[simp] theorem State.takeInput_responses (rest : List HostEvent) (s : State) :
    (s.takeInput rest).responses = s.responses := rfl
@[simp] theorem State.takeInput_freeNext (rest : List HostEvent) (s : State) :
    (s.takeInput rest).freeNext = s.freeNext := rfl

/-! ### `State.sendFirst` -/

@[simp] theorem State.sendFirst_w (ws : List Word) (s : State) : (s.sendFirst ws).w = s.w := rfl
@[simp] theorem State.sendFirst_nw (ws : List Word) (s : State) : (s.sendFirst ws).nw = s.nw := rfl
@[simp] theorem State.sendFirst_p (ws : List Word) (s : State) : (s.sendFirst ws).p = s.p := rfl
@[simp] theorem State.sendFirst_pv (ws : List Word) (s : State) : (s.sendFirst ws).pv = s.pv := rfl
@[simp] theorem State.sendFirst_f (ws : List Word) (s : State) : (s.sendFirst ws).f = s.f := rfl
@[simp] theorem State.sendFirst_hnw (ws : List Word) (s : State) : (s.sendFirst ws).hnw = s.hnw := rfl
@[simp] theorem State.sendFirst_hv (ws : List Word) (s : State) : (s.sendFirst ws).hv = s.hv := rfl
@[simp] theorem State.sendFirst_ge (ws : List Word) (s : State) : (s.sendFirst ws).ge = s.ge := rfl
@[simp] theorem State.sendFirst_be (ws : List Word) (s : State) : (s.sendFirst ws).be = s.be := rfl
@[simp] theorem State.sendFirst_ie (ws : List Word) (s : State) : (s.sendFirst ws).ie = s.ie := rfl
@[simp] theorem State.sendFirst_np (ws : List Word) (s : State) : (s.sendFirst ws).np = s.np := rfl
@[simp] theorem State.sendFirst_nh (ws : List Word) (s : State) : (s.sendFirst ws).nh = s.nh := rfl
@[simp] theorem State.sendFirst_input (ws : List Word) (s : State) :
    (s.sendFirst ws).input = ws.map .word ++ s.input := rfl
@[simp] theorem State.sendFirst_responses (ws : List Word) (s : State) :
    (s.sendFirst ws).responses = s.responses := rfl
@[simp] theorem State.sendFirst_freeNext (ws : List Word) (s : State) : (s.sendFirst ws).freeNext = s.freeNext := rfl

end Sys2Proof.Machine
end

