-- ==== Sys2Proof/Laws/Ops.lean ====
section
/-! SUPPORT. What each shared operation can do, said once: the bounds check, extraction, HDR's loop, the common part of
the header queries. Later proofs cite these instead of unfolding the operations. -/

namespace Sys2Proof.Machine

/-! ### The bounds check (R53) -/

theorem memRead1_ok (s : State) {i : Nat} (hn : i < s.nw.toNat) (h : i < 8) : s.memRead1 i = .ok s.w[i] := by
  simp [State.memRead1, hn, h]

theorem memRead1_bounds (s : State) {i : Nat} (h : s.nw.toNat ≤ i ∨ 8 ≤ i) : s.memRead1 i = .error .bounds := by
  have : ¬(i < s.nw.toNat ∧ i < 8) := by omega
  simp [State.memRead1, this]

/-- All a one-word read can do. -/
theorem memRead1_cases (s : State) (i : Nat) :
    (∃ h : i < 8, i < s.nw.toNat ∧ s.memRead1 i = .ok s.w[i]) ∨
      ((s.nw.toNat ≤ i ∨ 8 ≤ i) ∧ s.memRead1 i = .error .bounds) := by
  by_cases h : i < s.nw.toNat ∧ i < 8
  · exact .inl ⟨h.2, h.1, memRead1_ok s h.1 h.2⟩
  · have h' : s.nw.toNat ≤ i ∨ 8 ≤ i := by omega
    exact .inr ⟨h', memRead1_bounds s h'⟩

theorem memRead2_ok (s : State) {i : Nat} (hn : i + 1 < s.nw.toNat) (h : i + 1 < 8) :
    s.memRead2 i = .ok (s.w[i + 1] ++ s.w[i]) := by
  simp [State.memRead2, memRead1_ok s (show i < s.nw.toNat by omega) (by omega), memRead1_ok s hn h]

theorem memRead2_bounds (s : State) {i : Nat} (h : s.nw.toNat ≤ i + 1 ∨ 8 ≤ i + 1) :
    s.memRead2 i = .error .bounds := by
  rcases memRead1_cases s i with ⟨_, _, e⟩ | ⟨_, e⟩
  · simp [State.memRead2, e, memRead1_bounds s h]
  · simp [State.memRead2, e]

/-! ### Extraction (R124) -/

theorem extract_one (s : State) {d : Descriptor} (hl : d.bl ≠ 64) (hn : d.wi.toNat < s.nw.toNat)
    (h : d.wi.toNat < 8) : s.extract d = .ok (zext64 (field32 s.w[d.wi.toNat] d.bi d.bl.toNat)) := by
  simp only [State.extract, if_neg hl, memRead1_ok s hn h]

theorem extract_two (s : State) {d : Descriptor} (hl : d.bl = 64) (hn : d.wi.toNat + 1 < s.nw.toNat)
    (h : d.wi.toNat + 1 < 8) : s.extract d = .ok (cat64 s.w[d.wi.toNat] s.w[d.wi.toNat + 1]) := by
  have e : (s.w[d.wi.toNat + 1] ++ s.w[d.wi.toNat]).extractLsb' 32 32 = s.w[d.wi.toNat + 1] := by
    rw [BitVec.extractLsb'_append_eq_left]
  have e' : (s.w[d.wi.toNat + 1] ++ s.w[d.wi.toNat]).extractLsb' 0 32 = s.w[d.wi.toNat] := by
    rw [BitVec.extractLsb'_append_eq_right]
  simp only [State.extract, hl, memRead2_ok s hn h, if_true, e, e']

/-- The word indices at which extraction raises `Bounds` (R202). -/
theorem extract_bounds (s : State) {d : Descriptor}
    (h : s.nw.toNat ≤ d.wi.toNat ∨ 8 ≤ d.wi.toNat ∨ d.bl = 64 ∧ (s.nw.toNat ≤ d.wi.toNat + 1 ∨ 8 ≤ d.wi.toNat + 1)) :
    s.extract d = .error .bounds := by
  by_cases hl : d.bl = 64
  · simp [State.extract, hl, memRead2_bounds s (show s.nw.toNat ≤ d.wi.toNat + 1 ∨ 8 ≤ d.wi.toNat + 1 by omega)]
  · have : s.nw.toNat ≤ d.wi.toNat ∨ 8 ≤ d.wi.toNat := by
      rcases h with h | h | h
      · exact .inl h
      · exact .inr h
      · exact absurd h.1 hl
    simp only [State.extract, if_neg hl, memRead1_bounds s this]

/-- Extraction raises nothing but `Bounds` (R202, R207). -/
theorem extract_error (s : State) (d : Descriptor) {x : Exc} (h : s.extract d = .error x) : x = .bounds := by
  by_cases hb : s.nw.toNat ≤ d.wi.toNat ∨ 8 ≤ d.wi.toNat ∨
      d.bl = 64 ∧ (s.nw.toNat ≤ d.wi.toNat + 1 ∨ 8 ≤ d.wi.toNat + 1)
  · rw [extract_bounds s hb] at h
    cases h
    rfl
  · push Not at hb
    by_cases hl : d.bl = 64
    · have := hb.2.2 hl
      rw [extract_two s hl (by omega) (by omega)] at h
      cases h
    · rw [extract_one s hl (by omega) (by omega)] at h
      cases h

/-! ### HDR's loop (R141, R145) -/

/-- With four words or more the loop gives the twelve fields of the table. -/
theorem extractAll_table (s : State) (hn : 4 ≤ s.nw.toNat) :
    s.extractAll headerTable.toList =
      .ok [field32 s.w[0] 0 30, field32 s.w[0] 30 1, field32 s.w[0] 31 1, field32 s.w[1] 0 24, field32 s.w[1] 24 6,
        field32 s.w[2] 0 24, field32 s.w[2] 24 5, field32 s.w[2] 29 3, field32 s.w[3] 0 16, field32 s.w[3] 16 10,
        field32 s.w[3] 26 5, field32 s.w[3] 31 1] := by
  have h0 := memRead1_ok s (i := 0) (by omega) (by omega)
  have h1 := memRead1_ok s (i := 1) (by omega) (by omega)
  have h2 := memRead1_ok s (i := 2) (by omega) (by omega)
  have h3 := memRead1_ok s (i := 3) (by omega) (by omega)
  simp [headerTable, State.extractAll, State.extract, h0, h1, h2, h3, zext64]

/-- With fewer than four words the loop raises `Bounds`. -/
theorem extractAll_table_bounds (s : State) (hn : s.nw.toNat < 4) :
    s.extractAll headerTable.toList = .error .bounds := by
  have h3 := memRead1_bounds s (i := 3) (by omega)
  rcases memRead1_cases s 0 with ⟨_, _, h0⟩ | ⟨_, h0⟩ <;> rcases memRead1_cases s 1 with ⟨_, _, h1⟩ | ⟨_, h1⟩ <;>
    rcases memRead1_cases s 2 with ⟨_, _, h2⟩ | ⟨_, h2⟩ <;>
    simp [headerTable, State.extractAll, State.extract, h0, h1, h2, h3]

/-! ### The common part of the header queries (R160) -/

theorem headerQuery_header (tag : Tag) (value : Value) (s : State) (h : s.hv = true) :
    headerQuery tag value s = .next (s.respond tag value) := by
  simp [headerQuery, h]

theorem headerQuery_noHeader (tag : Tag) (value : Value) (s : State) (h : s.hv = false) :
    headerQuery tag value s = .next (s.raise .other .noHeader) := by
  simp [headerQuery, raiseOutcome, h]

/-! ### The word file after LDW (R110) -/

theorem loadSequence_w_get (data : List Word) (s : State) {i : Nat} (h : i < data.length) (h8 : i < 8) :
    (s.loadSequence data).w[i] = data[i] := by
  simp [loadedWord, h]

/-- The sticky flags after one is set (R30). -/
theorem sticky_setSticky (s : State) (x y : Exc) : (s.setSticky x).sticky y = (s.sticky y || decide (x = y)) := by
  cases x <;> cases y <;> simp [State.setSticky, State.sticky]

end Sys2Proof.Machine
end

