-- ==== Sys2Proof/Laws/Commands.lean ====
section
/-! SUPPORT. What a command can do, said once: one case lemma for each meaning that branches, and the inversion of `exec`
from which the invariants and the whole-machine rules follow. -/

namespace Sys2Proof.Machine

/-- All a header query can do (R142, R160). -/
theorem headerQuery_cases (tag : Tag) (v : Value) (s : State) :
    (s.hv = true ∧ headerQuery tag v s = .next (s.respond tag v)) ∨
      (s.hv = false ∧ headerQuery tag v s = .next (s.raise .other .noHeader)) := by
  rcases h : s.hv
  · exact .inr ⟨rfl, headerQuery_noHeader _ _ _ h⟩
  · exact .inl ⟨rfl, headerQuery_header _ _ _ h⟩

/-- All LDW can do (R110). -/
theorem execLdw_cases (data : List Word) (s : State) :
    (data.length ≤ 8 ∧ execLdw data s = .next (s.loadSequence data).respondNone) ∨
      (8 < data.length ∧ execLdw data s = .next (s.raise .other .illegal)) := by
  by_cases h : data.length ≤ 8
  · exact .inl ⟨h, by rw [execLdw, if_pos h]⟩
  · exact .inr ⟨by omega, by rw [execLdw, if_neg h]; rfl⟩

/-- All MKP can do (R122). -/
theorem execMkp_cases (wi : BitVec 4) (bi : BitVec 5) (bl : BitVec 8) (s : State) :
    (geomOK bi bl = true ∧ execMkp wi bi bl s = .next (s.setParser ⟨wi, bi, bl⟩).respondNone) ∨
      (geomOK bi bl = false ∧ execMkp wi bi bl s = .next (s.raise .mkp .geometry)) := by
  rcases h : geomOK bi bl
  · exact .inr ⟨rfl, by simp [execMkp, h, raiseOutcome]⟩
  · exact .inl ⟨rfl, by simp [execMkp, h]⟩

/-- All EXT can do (R123). -/
theorem execExt_cases (s : State) :
    (s.pv = true ∧ ∃ v, s.extract s.p = .ok v ∧ execExt s = .next (s.respond .uint v)) ∨
      (s.pv = true ∧ s.extract s.p = .error .bounds ∧ execExt s = .next (s.raise .other .bounds)) ∨
      (s.pv = false ∧ execExt s = .next (s.raise .other .noParser)) := by
  rcases h : s.pv
  · exact .inr (.inr ⟨rfl, by simp [execExt, h, raiseOutcome]⟩)
  · rcases he : s.extract s.p with x | v
    · have hx := extract_error _ _ he
      subst hx
      exact .inr (.inl ⟨rfl, rfl, by rw [execExt, if_pos h, he]; rfl⟩)
    · exact .inl ⟨rfl, v, rfl, by rw [execExt, if_pos h, he]⟩

/-- All HDR can do (R141, R145). -/
theorem execHdr_cases (s : State) :
    (4 ≤ s.nw.toNat ∧ ∃ ts, s.extractAll headerTable.toList = .ok ts ∧ execHdr s = .next (s.latchHeader ts).respondNone) ∨
      (s.nw.toNat < 4 ∧ execHdr s = .next (s.raise .hdr .bounds)) := by
  rcases Nat.lt_or_ge s.nw.toNat 4 with h | h
  · exact .inr ⟨h, by rw [execHdr, extractAll_table_bounds s h]; rfl⟩
  · exact .inl ⟨h, _, extractAll_table s h, by rw [execHdr, extractAll_table s h]⟩

/-- All RDF can do (R142). -/
theorem execRdf_cases (field : BitVec 4) (s : State) :
    (∃ h : field.toNat < 12, execRdf field s = headerQuery .uint (zext64 s.f[field.toNat]) s) ∨
      (12 ≤ field.toNat ∧ execRdf field s = .next (s.raise .other .illegal)) := by
  by_cases h : field.toNat < 12
  · exact .inl ⟨h, by rw [execRdf, dif_pos h]⟩
  · exact .inr ⟨by omega, by rw [execRdf, dif_neg h]; rfl⟩

/-- The five kinds of effect a command can have, with what is known of the command in each. -/
inductive CommandEffect (i : Instr) (s : State) : State → Prop where
  /-- LDW loads its words. -/
  | load (data : List Word) : i = .ldw data → data.length ≤ 8 →
      CommandEffect i s (s.loadSequence data).respondNone
  /-- MKP latches a descriptor of good geometry. -/
  | parser (d : Descriptor) : i = .mkp d.wi d.bi d.bl → geomOK d.bi d.bl = true →
      CommandEffect i s (s.setParser d).respondNone
  /-- HDR latches the table's fields. -/
  | header (ts : List Word) : i = .hdr → 4 ≤ s.nw.toNat → s.extractAll headerTable.toList = .ok ts →
      CommandEffect i s (s.latchHeader ts).respondNone
  /-- A command that returns a value changes nothing but the responses. -/
  | answer (tag : Tag) (v : Value) : i ≠ .hdr → (∀ data, i ≠ .ldw data) → (∀ wi bi bl, i ≠ .mkp wi bi bl) →
      tag ≠ .none → (tag = .sint → i = .plb ∨ i = .nsmp) → (tag = .str2 → i = .stid) →
      (tag = .bool → s.hv = true ∧
        (i = .isleg ∧ v = zext64 s.f[1] ∨ i = .iscpx ∧ v = zext64 s.f[11] ∨ i = .isval ∧ v = 1 - zext64 s.f[2])) →
      CommandEffect i s (s.respond tag v)
  /-- A command raises one of its exceptions. -/
  | raised (who : RaisedBy) (x : Exc) : (who = .mkp → x = .geometry ∧ ∃ wi bi bl, i = .mkp wi bi bl) →
      (who = .hdr → i = .hdr) → (i.wellFormed = true → x ∈ raisable i) → CommandEffect i s (s.raise who x)

/-- The inversion of a header query whose tag says nothing of the command. -/
theorem headerQuery_effect {i : Instr} {tag : Tag} {v : Value} {s t : State} (h : headerQuery tag v s = .next t)
    (ha : s.hv = true → CommandEffect i s (s.respond tag v)) (hr : Exc.noHeader ∈ raisable i) :
    CommandEffect i s t := by
  rcases headerQuery_cases tag v s with ⟨hv, e⟩ | ⟨_, e⟩ <;> (rw [e] at h; cases h)
  · exact ha hv
  · exact .raised _ _ (by simp) (by simp) fun _ => hr

/-- The inversion of `exec`: a command that answers a next state had one of the five effects. -/
theorem exec_effect {i : Instr} {s t : State} (h : exec i s = .next t) : CommandEffect i s t := by
  cases i with
  | ldw data =>
    rcases execLdw_cases data s with ⟨hl, e⟩ | ⟨hl, e⟩ <;> (rw [exec, e] at h; cases h)
    · exact .load data rfl hl
    · exact .raised _ _ (by simp) (by simp) (by simp [Instr.wellFormed]; omega)
  | mkp wi bi bl =>
    rcases execMkp_cases wi bi bl s with ⟨hg, e⟩ | ⟨hg, e⟩ <;> (rw [exec, e] at h; cases h)
    · exact .parser ⟨wi, bi, bl⟩ rfl hg
    · exact .raised _ _ (by simp) (by simp) (by simp [raisable])
  | ext =>
    rcases execExt_cases s with ⟨_, v, _, e⟩ | ⟨_, _, e⟩ | ⟨_, e⟩ <;> (rw [exec, e] at h; cases h)
    · exact .answer _ _ (by simp) (by simp) (by simp) (by simp) (by simp) (by simp) (by simp)
    · exact .raised _ _ (by simp) (by simp) (by simp [raisable])
    · exact .raised _ _ (by simp) (by simp) (by simp [raisable])
  | hdr =>
    rcases execHdr_cases s with ⟨hn, ts, hx, e⟩ | ⟨_, e⟩ <;> (rw [exec, e] at h; cases h)
    · exact .header ts rfl hn hx
    · exact .raised _ _ (by simp) (by simp) (by simp [raisable])
  | rdf field =>
    rcases execRdf_cases field s with ⟨_, e⟩ | ⟨hf, e⟩ <;> rw [exec, e] at h
    · exact headerQuery_effect h
        (fun _ => .answer _ _ (by simp) (by simp) (by simp) (by simp) (by simp) (by simp) (by simp)) (by simp [raisable])
    · cases h
      exact .raised _ _ (by simp) (by simp) (by simp [Instr.wellFormed]; omega)
  | stid =>
    refine headerQuery_effect h (fun _ => .answer _ _ (by simp) (by simp) (by simp) ?_ ?_ (by simp) ?_) (by simp [raisable])
    all_goals
      unfold stationTag
      split <;> simp
  | rdst =>
    cases h
    exact .answer _ _ (by simp) (by simp) (by simp) (by simp) (by simp) (by simp) (by simp)
  | bps =>
    exact headerQuery_effect h
      (fun _ => .answer _ _ (by simp) (by simp) (by simp) (by simp) (by simp) (by simp) (by simp)) (by simp [raisable])
  | flb =>
    exact headerQuery_effect h
      (fun _ => .answer _ _ (by simp) (by simp) (by simp) (by simp) (by simp) (by simp) (by simp)) (by simp [raisable])
  | plb =>
    exact headerQuery_effect h
      (fun _ => .answer _ _ (by simp) (by simp) (by simp) (by simp) (by simp) (by simp) (by simp)) (by simp [raisable])
  | nch =>
    exact headerQuery_effect h
      (fun _ => .answer _ _ (by simp) (by simp) (by simp) (by simp) (by simp) (by simp) (by simp)) (by simp [raisable])
  | nsmp =>
    exact headerQuery_effect h
      (fun _ => .answer _ _ (by simp) (by simp) (by simp) (by simp) (by simp) (by simp) (by simp)) (by simp [raisable])
  | thid =>
    exact headerQuery_effect h
      (fun _ => .answer _ _ (by simp) (by simp) (by simp) (by simp) (by simp) (by simp) (by simp)) (by simp [raisable])
  | ver =>
    exact headerQuery_effect h
      (fun _ => .answer _ _ (by simp) (by simp) (by simp) (by simp) (by simp) (by simp) (by simp)) (by simp [raisable])
  | isleg =>
    exact headerQuery_effect h
      (fun hv => .answer _ _ (by simp) (by simp) (by simp) (by simp) (by simp) (by simp) (by simp [hv])) (by simp [raisable])
  | iscpx =>
    exact headerQuery_effect h
      (fun hv => .answer _ _ (by simp) (by simp) (by simp) (by simp) (by simp) (by simp) (by simp [hv])) (by simp [raisable])
  | isval =>
    exact headerQuery_effect h
      (fun hv => .answer _ _ (by simp) (by simp) (by simp) (by simp) (by simp) (by simp) (by simp [hv])) (by simp [raisable])

/-- The field registers HDR latches: the slices of words 0 to 3 that the table names (R141, R143). -/
theorem latchHeader_table_f (s : State) (ts : List Word) (hn : 4 ≤ s.nw.toNat)
    (h : s.extractAll headerTable.toList = .ok ts) :
    (s.latchHeader ts).f =
      #v[field32 s.w[0] 0 30, field32 s.w[0] 30 1, field32 s.w[0] 31 1, field32 s.w[1] 0 24, field32 s.w[1] 24 6,
        field32 s.w[2] 0 24, field32 s.w[2] 24 5, field32 s.w[2] 29 3, field32 s.w[3] 0 16, field32 s.w[3] 16 10,
        field32 s.w[3] 26 5, field32 s.w[3] 31 1] := by
  rw [extractAll_table s hn] at h
  cases h
  rfl

end Sys2Proof.Machine
end

