-- ==== Sys2Proof/Laws/PerInstr.lean ====
section
/-! SUPPORT. Laws stated of every instruction as syntax, one lemma per constructor: a command's encoding has the length
R80 gives it. -/

namespace Sys2Proof.Laws.EncodeLength

/-- The encoding of a command is as many words long as R80 says. -/
def Statement (i : Instr) : Prop := (encode i).length = i.lengthWords

theorem ldw (data : List Word) : Statement (.ldw data) := by
  simp [Statement, encode, Instr.lengthWords, Nat.add_comm]

theorem mkp (wi : BitVec 4) (bi : BitVec 5) (bl : BitVec 8) : Statement (.mkp wi bi bl) := rfl
theorem ext : Statement .ext := rfl
theorem hdr : Statement .hdr := rfl
theorem rdf (field : BitVec 4) : Statement (.rdf field) := rfl
theorem bps : Statement .bps := rfl
theorem flb : Statement .flb := rfl
theorem plb : Statement .plb := rfl
theorem nch : Statement .nch := rfl
theorem nsmp : Statement .nsmp := rfl
theorem stid : Statement .stid := rfl
theorem thid : Statement .thid := rfl
theorem ver : Statement .ver := rfl
theorem isleg : Statement .isleg := rfl
theorem iscpx : Statement .iscpx := rfl
theorem isval : Statement .isval := rfl
theorem rdst : Statement .rdst := rfl

end Sys2Proof.Laws.EncodeLength
end

