-- ==== Sys2Proof/Laws/Step.lean ====
section
/-! SUPPORT. What one step can do, said once, and what the head of the host's stream can be. -/

namespace Sys2Proof.Machine

@[simp] theorem leadingWords_append (ws : List Word) (rest : List HostEvent) :
    leadingWords (ws.map .word ++ rest) = ws ++ leadingWords rest := by
  induction ws with
  | nil => rfl
  | cons c ws ih => simp [leadingWords, ih]

@[simp] theorem leadingWords_map (ws : List Word) : leadingWords (ws.map .word) = ws := by
  simpa [leadingWords] using leadingWords_append ws []

/-- All a step that answers a next state can be (R77, R80, R240). -/
theorem step_next_cases {s t : State} (h : step s = .next t) :
    (∃ i rest, fetch s.input = .command i rest ∧ exec i (s.takeInput rest) = .next t) ∨
      (∃ rest, fetch s.input = .illegal rest ∧ t = (s.takeInput rest).raise .other .illegal) ∨
      (∃ rest, fetch s.input = .reset rest ∧ t = (s.takeInput rest).hostReset) := by
  unfold step at h
  split at h
  · next i rest e => exact .inl ⟨i, rest, e, h⟩
  · next rest e => exact .inr (.inl ⟨rest, e, by cases h; rfl⟩)
  · next rest e => exact .inr (.inr ⟨rest, e, by cases h; rfl⟩)
  all_goals cases h

/-- What the head of the stream is, by what its first event is. -/
theorem fetch_word (c : Word) (rest : List HostEvent) :
    fetch (.word c :: rest) =
      match decode (c :: leadingWords rest) with
      | .command i _ => .command i ((HostEvent.word c :: rest).drop i.lengthWords)
      | .illegal _ => .illegal rest
      | .incomplete => if HostEvent.reset ∈ rest then .resetInside else .incomplete := rfl

/-- A decoded command takes at least one word. -/
theorem lengthWords_pos (i : Instr) : 0 < i.lengthWords := by
  cases i <;> simp [Instr.lengthWords]

end Sys2Proof.Machine
end

