-- ==== Sys2Proof/Tests/Slice0.lean ====
section
/-! SUPPORT. The model's own tests, each of one step or one decoding, with expected results from spec/95_test_vectors (the
vector named) or worked out from the rule named, and a witness for every statement that has hypotheses. -/

namespace Sys2Proof.Tests

open Sys2Proof.Machine

/-! ### Small states -/

/-- The spec's eight words (95_test_vectors S4). -/
def words8 : Vector Word 8 :=
  #v[0x00DB2C77, 0x1C000000, 0x20000275, 0x0401FFFC, 0x03800010, 0xACABFEED, 0x33400000, 0xF2031583]

/-- The reset state with the first `n` of the spec's words loaded. -/
def loaded (n : BitVec 4) : State := { State.reset with w := words8, nw := n }

/-- The same with a parser made. -/
def parsing (n : BitVec 4) (wi : BitVec 4) (bi : BitVec 5) (bl : BitVec 8) : State :=
  { loaded n with p := ⟨wi, bi, bl⟩, pv := true }

/-- The reset state with a decoded header. -/
def decoded (f : Vector Word 12) (hnw : BitVec 4) : State := { State.reset with f := f, hnw := hnw, hv := true }

/-- Every field register at its maximum (V73). -/
def maxFields : Vector Word 12 := #v[1073741823, 1, 1, 16777215, 63, 16777215, 31, 7, 65535, 1023, 31, 1]

/-- The reset state with words sent by the host. -/
def sent (ws : List Word) : State := State.reset.deliver ws

/-- The last response a step or command gave. -/
def answer : Host.Outcome State Fault Refusal → Option Response
  | .next s => s.responses.getLast?
  | _ => none

/-- The status view (R29) after a step or command. -/
def statusAfter : Host.Outcome State Fault Refusal → Option Word
  | .next s => some s.statusView
  | _ => none

/-- Whether a step or command answers a next state. -/
def isNext : Host.Outcome State Fault Refusal → Bool
  | .next _ => true
  | _ => false

/-! ### WellFormed refuses what R74 refuses -/

theorem test_wellFormed_refuses_nine_words : (Instr.ldw [0, 0, 0, 0, 0, 0, 0, 0, 0]).wellFormed = false := by decide
theorem test_wellFormed_refuses_field_twelve : (Instr.rdf 12).wellFormed = false := by decide

/-! ### Decoding, each word written out from R70 to R74 -/

/-- V18, R87 and V37: LDW's count, then its data as they stand. -/
theorem test_decode_ldw :
    decode [0x10000000] = .command (.ldw []) [] ∧
      decode [0x14000000, 0x00DB2C77, 0x1C000000, 0x20000275, 0x0401FFFC, 0x70000000] =
        .command (.ldw [0x00DB2C77, 0x1C000000, 0x20000275, 0x0401FFFC]) [0x70000000] ∧
      decode [0x12000000, 0x30000000, 0x40000000] = .command (.ldw [0x30000000, 0x40000000]) [] := by decide

/-- V22 and R87: MKP's three operands. -/
theorem test_decode_mkp :
    decode [0x200F1FFF] = .command (.mkp 15 31 255) [] ∧ decode [0x20011806] = .command (.mkp 1 24 6) [] ∧
      decode [0x20031F01] = .command (.mkp 3 31 1) [] := by decide

/-- V26, V28, V33: the commands without operand. -/
theorem test_decode_format_z :
    decode [0x30000000] = .command .ext [] ∧ decode [0x40000000] = .command .hdr [] ∧
      decode [0x70000000] = .command .rdst [] := by decide

/-- V29: RDF's field number. -/
theorem test_decode_rdf :
    decode [0x5B000000] = .command (.rdf 11) [] ∧ decode [0x50000000] = .command (.rdf 0) [] := by decide

/-- R74: the property selectors 0 to 10. -/
theorem test_decode_properties :
    decode [0x60000000] = .command .bps [] ∧ decode [0x61000000] = .command .flb [] ∧
      decode [0x62000000] = .command .plb [] ∧ decode [0x63000000] = .command .nch [] ∧
      decode [0x64000000] = .command .nsmp [] ∧ decode [0x65000000] = .command .stid [] ∧
      decode [0x66000000] = .command .thid [] ∧ decode [0x67000000] = .command .ver [] ∧
      decode [0x68000000] = .command .isleg [] ∧ decode [0x69000000] = .command .iscpx [] ∧
      decode [0x6A000000] = .command .isval [] := by decide

/-- V15 to V17, V20, V21, V23 to V25, V27, V30, V32, V34: the illegal words. -/
theorem test_decode_illegal :
    ([0x00000000, 0xFFFFFFFF, 0x80000000, 0x19000000, 0x14000001, 0x2000201E, 0x2010001E, 0x2100001E, 0x30000001,
      0x5C000000, 0x6B000000, 0x71000000] : List Word).all (fun c => decide (decode [c] = .illegal [])) = true := by
  decide

/-- The host's two fixed names on a word of each format. -/
theorem test_table_word :
    decodeTableWord 32 0x5B000000 = some (.rdf 11) ∧ decodeTableWord 32 0x5C000000 = none ∧
      decodeTableWord 32 0x12000000 = some (.ldw [0, 0]) ∧
      isNext (step (State.reset.withFetchWord 32 0x18000000)) = true := by decide

/-! ### The shifter and mask unit (V1 to V14) and the geometry check (V39 to V57) -/

theorem test_shr32 : shr32 0x80000000 31 = 1 ∧ shr32 0xFFFFFFFF 1 = 0x7FFFFFFF := by decide
theorem test_mask : mask 0 = 0 ∧ mask 30 = 0x3FFFFFFF ∧ mask 32 = 0xFFFFFFFF := by decide
theorem test_field32 : field32 0xF2031583 28 4 = 15 ∧ field32 0xACABFEED 8 16 = 44030 ∧ field32 0xACABFEED 5 0 = 0 := by
  decide
theorem test_cat64 : cat64 0x03800010 0xACABFEED = 0xACABFEED03800010 := by decide
theorem test_geomOK :
    geomOK 0 0 = false ∧ geomOK 0 33 = false ∧ geomOK 1 31 = true ∧ geomOK 31 2 = false ∧ geomOK 1 0 = true ∧
      geomOK 0 64 = true ∧ geomOK 1 64 = false ∧ geomOK 0 63 = false ∧ geomOK 0 255 = false := by decide

/-! ### One step of each command -/

/-- V37: data words that look like commands are data; `ST` then shows `NW = 2`. -/
theorem test_ldw : statusAfter (step (sent [0x12000000, 0x30000000, 0x40000000])) = some 2 := by decide

/-- V38: a count of 9 is illegal and one word long. -/
theorem test_ldw_nine : answer (step (sent [0x19000000])) = some ⟨.illegal, .none, 0⟩ := by decide

/-- V43: sum exactly 32. -/
theorem test_mkp : answer (exec (.mkp 0 1 31) State.reset) = some ⟨.ok, .none, 0⟩ := by decide

/-- V129: a failed MKP removes the parser and sets `GE` (bit 16); `PV` (bit 8) is clear. -/
theorem test_mkp_bad : statusAfter (exec (.mkp 0 0 0) (parsing 0 1 2 3)) = some 0x00010000 := by decide

/-- V62: words 4 and 5. -/
theorem test_ext_two_words : answer (exec .ext (parsing 8 4 0 64)) = some ⟨.ok, .uint, 0xACABFEED03800010⟩ := by decide

/-- V66: index 16 is computed without wrap. -/
theorem test_ext_no_wrap : answer (exec .ext (parsing 8 15 0 64)) = some ⟨.bounds, .none, 0⟩ := by decide

/-- V71: the spec's header. -/
theorem test_hdr : (match exec .hdr (loaded 8) with
    | .next s => s.f.toList.map BitVec.toNat
    | _ => []) = [14363767, 0, 0, 0, 28, 629, 0, 1, 65532, 1, 1, 0] := by decide

/-- V75: three words are too few; `NW` is 3 and `BE` (bit 17) is set. -/
theorem test_hdr_short : statusAfter (exec .hdr (loaded 3)) = some 0x00020003 := by decide

/-- V120: the raw invalid bit. -/
theorem test_rdf : answer (exec (.rdf 2) (decoded maxFields 8)) = some ⟨.ok, .uint, 1⟩ := by decide

/-- V131: `Illegal` before `NoHeader`: only `IE` (bit 18). -/
theorem test_rdf_illegal : statusAfter (step (sent [0x5C000000])) = some 0x00040000 := by decide

/-- V83. -/
theorem test_bps : answer (exec .bps (decoded maxFields 8)) = some ⟨.ok, .uint, 32⟩ := by decide

/-- V85. -/
theorem test_flb : answer (exec .flb (decoded maxFields 8)) = some ⟨.ok, .uint, 134217720⟩ := by decide

/-- V88: a negative payload in two's complement. -/
theorem test_plb_negative :
    answer (exec .plb (decoded (Vector.replicate 12 0) 8)) = some ⟨.ok, .sint, 0xFFFFFFFFFFFFFFE0⟩ := by decide

/-- V92: positive, not `-2^31`. -/
theorem test_nch : answer (exec .nch (decoded maxFields 8)) = some ⟨.ok, .uint, 0x80000000⟩ := by decide

/-- V99: the product before the division. -/
theorem test_nsmp : answer (exec .nsmp (decoded #v[0, 0, 0, 0, 0, 4, 2, 0, 0, 0, 10, 0] 5)) = some ⟨.ok, .sint, 1⟩ := by
  decide

/-- V102, V103, V105, V106: a negative product under both values of `NEG_DIV`. -/
theorem test_nsmp_rounding :
    numSamples .trunc #v[0, 0, 0, 0, 0, 0, 8, 0, 0, 0, 1, 0] 8 = 0 ∧
      numSamples .floor #v[0, 0, 0, 0, 0, 0, 8, 0, 0, 0, 1, 0] 8 = -1 ∧
      numSamples .trunc #v[0, 0, 0, 0, 0, 2, 2, 0, 0, 0, 2, 0] 5 = -2 ∧
      numSamples .floor #v[0, 0, 0, 0, 0, 2, 2, 0, 0, 0, 2, 0] 5 = -3 := by decide

/-- V109 and V110: the upper bound is 128. -/
theorem test_stid :
    answer (exec .stid (decoded #v[0, 0, 0, 0, 0, 0, 0, 0, 0x80FF, 0, 0, 0] 8)) = some ⟨.ok, .str2, 0x80FF⟩ ∧
      answer (exec .stid (decoded #v[0, 0, 0, 0, 0, 0, 0, 0, 0x8100, 0, 0, 0] 8)) = some ⟨.ok, .uint, 33024⟩ := by decide

/-- V107 and V108: the lower bound is 48. -/
theorem test_stid_low :
    answer (exec .stid (decoded #v[0, 0, 0, 0, 0, 0, 0, 0, 0x2FFF, 0, 0, 0] 8)) = some ⟨.ok, .uint, 12287⟩ ∧
      answer (exec .stid (decoded #v[0, 0, 0, 0, 0, 0, 0, 0, 0x3000, 0, 0, 0] 8)) = some ⟨.ok, .str2, 0x3000⟩ := by decide

/-- V114, V115. -/
theorem test_thid : answer (exec .thid (decoded maxFields 8)) = some ⟨.ok, .uint, 1023⟩ := by decide
theorem test_ver : answer (exec .ver (decoded maxFields 8)) = some ⟨.ok, .uint, 7⟩ := by decide

/-- V116, V117. -/
theorem test_isleg : answer (exec .isleg (decoded maxFields 8)) = some ⟨.ok, .bool, 1⟩ := by decide
theorem test_iscpx : answer (exec .iscpx (decoded maxFields 8)) = some ⟨.ok, .bool, 1⟩ := by decide

/-- V118 and V119, the pinning tests of the polarity. -/
theorem test_isval :
    answer (exec .isval (decoded (Vector.replicate 12 0) 8)) = some ⟨.ok, .bool, 1⟩ ∧
      answer (exec .isval (decoded maxFields 8)) = some ⟨.ok, .bool, 0⟩ := by decide

/-- V123: `NW`, `HNW`, `PV`, `HV`. -/
theorem test_rdst :
    answer (exec .rdst { parsing 8 0 0 30 with hnw := 8, hv := true }) = some ⟨.ok, .uint, 0x00000388⟩ := by decide

/-- V125: the five sticky flags; `HNW` shows 0 while `HV = 0` (R29). -/
theorem test_rdst_flags :
    answer (exec .rdst { State.reset with hnw := 5, ge := true, be := true, ie := true, np := true, nh := true }) =
      some ⟨.ok, .uint, 0x001F0000⟩ := by decide

/-- V121 and V126: the protocol refusals. -/
theorem test_refusals :
    answer (exec .nsmp State.reset) = some ⟨.noHeader, .none, 0⟩ ∧
      answer (exec .ext State.reset) = some ⟨.noParser, .none, 0⟩ := by decide

/-- R81 and R247: no complete command, no move. -/
theorem test_stuck :
    (match step (sent [0x12000000, 0x30000000]) with | .fault r => some r | _ => none) = some Fault.incompleteLoad ∧
      (match step State.reset with | .fault r => some r | _ => none) = some Fault.streamExhausted := by decide

/-- R240: reset clears the sticky flags and the valid bits. -/
theorem test_reset_event :
    statusAfter (step ({ parsing 8 0 0 30 with ge := true, nh := true }.requestReset)) = some 0 := by decide

/-- U9: reset in the middle of a command's words is refused by name. -/
theorem test_reset_inside :
    (match step ((sent [0x12000000, 1]).requestReset) with | .refused r => some r | _ => none) =
      some Refusal.resetInsideCommand := by decide

/-- R55: little-endian bytes; three left over are no word. -/
theorem test_words_of_bytes :
    wordsOfBytes [0x77, 0x2C, 0xDB, 0x00, 1, 2, 3] = ([0x00DB2C77], [1, 2, 3]) := by decide

/-- R85 to R87: the assembler syntax. -/
theorem test_assemble :
    assembleWordsOfLine "MKP  1, 24, 6   ; ref_epoch" = some [0x20011806] ∧
      assembleWordsOfLine "RDF ref_epoch" = some [0x54000000] ∧
      assembleWordsOfLine "LDW 0x00DB2C77, 0x1C000000" = some [0x12000000, 0x00DB2C77, 0x1C000000] ∧
      assembleWordsOfLine "LDW" = some [0x10000000] ∧ assembleWordsOfLine "DWORD 2" = some [0x20020040, 0x30000000] ∧
      assembleWordsOfLine "RDF 12" = none ∧ assembleWordsOfLine "EXT 1" = none := by decide

/-! ### Witnesses: for every statement with hypotheses, states and operands that meet all of them -/

theorem witness_DecodeOfEncodedCommand :
    (Instr.ldw [1, 2, 3, 4, 5, 6, 7, 8]).wellFormed = true ∧ (Instr.rdf 11).wellFormed = true := by decide

theorem witness_EncodeOfDecodedCommand : decode [0x11000000, 7, 9] = .command (.ldw [7]) [9] := by decide

theorem witness_OpcodeRowsNeverOverlap :
    (⟨"LDW", 0x10000000, 0xF0FFFFFF, 8⟩ : OpcodeRow) ∈ opcodeRows ∧
      (⟨"LDW", 0x10000000, 0xF0FFFFFF, 8⟩ : OpcodeRow).selects 0x18000000 = true := by decide

theorem witness_IllegalWordsExactly :
    (sent [0x19000000, 5]).input = .word 0x19000000 :: [.word 5] ∧ decodeWord 0x19000000 = .illegal := by decide

theorem witness_WordsAreLittleEndianBytes : 4 * 1 + 3 < [1, 2, 3, 4, 5, 6, 7, (8 : Byte)].length := by decide

theorem witness_StepRunsDecodedCommand :
    (Instr.ldw [7]).wellFormed = true ∧ decode [0x11000000, 7, 0x30000000] = .command (.ldw [7]) [0x30000000] ∧
      (sent [0x11000000, 7, 0x30000000]).requestReset.input =
        [(0x11000000 : Word), 7, 0x30000000].map .word ++ [.reset] := by decide

theorem witness_ResetEventResets :
    (State.reset.requestReset).input = .reset :: [] ∧
      ((sent [0x12000000, 1]).requestReset).input =
        (selectorWord 0x1 (BitVec.ofNat 4 2) :: [(1 : Word)]).map .word ++ .reset :: [] := by decide

theorem witness_PseudoInstructionsExpand : geomOK 0 33 = false := by decide

theorem witness_RdstMeaning :
    (0x70000001 : Word).extractLsb' 28 4 = 7 ∧ (0x70000001 : Word).extractLsb' 0 28 ≠ 0 := by decide

/-- `n = 8` with seven words, and `n = 1` with none. -/
theorem witness_IncompleteLoadWaits :
    (sent [0x18000000, 1, 2, 3, 4, 5, 6, 7]).input =
        (selectorWord 0x1 (BitVec.ofNat 4 8) :: [(1 : Word), 2, 3, 4, 5, 6, 7]).map .word ∧
      [(1 : Word), 2, 3, 4, 5, 6, 7].length + [(8 : Word)].length = 8 ∧
      (sent [0x11000000]).input = (selectorWord 0x1 (BitVec.ofNat 4 1) :: ([] : List Word)).map .word := by decide

/-- A step that is taken: by a command, by an illegal word, by the reset event (for LaterEventsDoNotMatter,
StepConsumesItsInput, OneResponsePerCommand). -/
theorem witness_steps_taken :
    (∃ t, step (sent [0x40000000]) = .next t) ∧ (∃ t, step (sent [0]) = .next t) ∧
      ∃ t, step State.reset.requestReset = .next t :=
  ⟨⟨_, rfl⟩, ⟨_, rfl⟩, ⟨_, rfl⟩⟩

theorem witness_ShifterAndMaskMeaning : (0 : Nat) < 32 - (31 : BitVec 5).toNat ∧ 32 - (31 : BitVec 5).toNat ≤ 1 := by decide

theorem witness_FieldIsQuotientAndRemainder :
    (31 : BitVec 5).toNat + 1 ≤ 32 ∧ (0 : BitVec 5).toNat + 32 ≤ 32 ∧ (5 : BitVec 5).toNat + 0 ≤ 32 := by decide

theorem witness_FieldsReassembleTheWord : (∀ n ∈ [30, 1, 1], 0 < n) ∧ [30, 1, 1].sum = 32 := by decide

/-- Each clause at a boundary of `NW`. -/
theorem witness_ReadsAreBoundsChecked :
    (loaded 8).LengthLegal ∧ (loaded 8).nw.toNat ≤ 8 ∧ 7 < (loaded 8).nw.toNat ∧ (loaded 8).nw.toNat ≤ 7 + 1 ∧
      6 + 1 < (loaded 8).nw.toNat := by decide

/-- Eight words and none; a count of 9, and a reserved bit. -/
theorem witness_LoadWordsMeaning :
    [(1 : Word), 2, 3, 4, 5, 6, 7, 8].length ≤ 8 ∧ ([] : List Word).length ≤ 8 ∧
      (sent [0x19000000, 5]).input = .word 0x19000000 :: [.word 5] ∧
      (0x19000000 : Word).extractLsb' 28 4 = 1 ∧ 8 < ((0x19000000 : Word).extractLsb' 24 4).toNat ∧
      (0x11000001 : Word).extractLsb' 28 4 = 1 ∧ (0x11000001 : Word).extractLsb' 0 24 ≠ 0 := by decide

theorem witness_MakeParserMeaning : geomOK 31 1 = true ∧ geomOK 31 2 = false := by decide

/-- The one-word clause, the two-word clause, and both ways to `Bounds`, each at the edge of the sequence. -/
theorem witness_ExtractMeaning :
    (loaded 8).LengthLegal ∧ geomOK 0 32 = true ∧ (7 : BitVec 4).toNat < (loaded 8).nw.toNat ∧
      geomOK 0 64 = true ∧ (6 : BitVec 4).toNat + 1 < (loaded 8).nw.toNat ∧
      (loaded 8).nw.toNat ≤ (8 : BitVec 4).toNat ∧ (loaded 8).nw.toNat ≤ (7 : BitVec 4).toNat + 1 := by decide

/-- `NoParser`; `Bounds` at index 8 and at the missing high word; one word at index 7; two words at index 6. -/
theorem witness_ExtMeaning :
    State.reset.pv = false ∧
      ((parsing 8 8 0 1).pv = true ∧ (parsing 8 8 0 1).nw.toNat ≤ (parsing 8 8 0 1).p.wi.toNat) ∧
      ((parsing 8 7 0 64).p.bl = 64 ∧ (parsing 8 7 0 64).nw.toNat ≤ (parsing 8 7 0 64).p.wi.toNat + 1) ∧
      ((parsing 8 7 0 32).LengthLegal ∧ (parsing 8 7 0 32).ParserLegal ∧ (parsing 8 7 0 32).p.bl ≠ 64 ∧
        (parsing 8 7 0 32).p.wi.toNat < (parsing 8 7 0 32).nw.toNat ∧ (parsing 8 7 0 32).p.wi.toNat < 8) ∧
      ((parsing 8 6 0 64).pv = true ∧ (parsing 8 6 0 64).p.bl = 64 ∧
        (parsing 8 6 0 64).p.wi.toNat + 1 < (parsing 8 6 0 64).nw.toNat) := by decide

theorem witness_ZeroLengthFields :
    (loaded 8).LengthLegal ∧ (31 : BitVec 5) ≠ 0 ∧ (7 : BitVec 4).toNat < (loaded 8).nw.toNat ∧
      (loaded 8).nw.toNat ≤ (8 : BitVec 4).toNat := by decide

theorem witness_MkpThenExtExtracts :
    (loaded 8).LengthLegal ∧ geomOK 24 8 = true ∧ (8 : BitVec 8) ≠ 64 ∧ (7 : BitVec 4).toNat < (loaded 8).nw.toNat ∧
      geomOK 0 64 = true ∧ (6 : BitVec 4).toNat + 1 < (loaded 8).nw.toNat ∧ (6 : BitVec 4).toNat + 1 < 8 := by decide

theorem witness_TableEntriesAreSound :
    (0 : Fin 12) ≠ 1 ∧ headerTable[(0 : Fin 12)].wi = headerTable[(1 : Fin 12)].wi := by decide

theorem witness_HdrMeaning : 4 ≤ (loaded 4).nw.toNat ∧ (loaded 3).nw.toNat < 4 := by decide

theorem witness_RdfMeaning :
    (11 : BitVec 4).toNat < 12 ∧ (decoded maxFields 8).hv = true ∧ State.reset.hv = false := by decide

theorem witness_HeaderRoundTrip :
    (loaded 4).LengthLegal ∧ 4 ≤ (loaded 4).nw.toNat ∧ headerTable[(11 : Fin 12)].wi.toNat < 8 := by decide

/-- Two states with the same header and different words. -/
theorem witness_PropertyCommandsCommonPart :
    Instr.isval ∈ propertyCommands ∧ State.reset.hv = false ∧ (decoded maxFields 8).hv = true ∧
      (decoded maxFields 8).f = { decoded maxFields 8 with w := words8, nw := 8 }.f ∧
      (decoded maxFields 8).w ≠ { decoded maxFields 8 with w := words8, nw := 8 }.w := by decide

/-- A legal header with every field at its maximum, and one with every field 0 and a negative payload (for the statements
of the single properties). -/
theorem witness_header_legal :
    ((decoded maxFields 4).hv = true ∧ (decoded maxFields 4).HeaderLegal) ∧
      (decoded (Vector.replicate 12 0) 8).hv = true ∧ (decoded (Vector.replicate 12 0) 8).HeaderLegal := by decide

/-- NSMP's `q` is negative in one legal header and not in another, and `NEG_DIV` has one of its two values. -/
theorem witness_NsmpMeaning :
    ((decoded (Vector.replicate 12 0) 8).f[5].toNat : Int) * 2 - ((decoded (Vector.replicate 12 0) 8).hnw.toNat : Int) < 0 ∧
      0 ≤ ((decoded maxFields 4).f[5].toNat : Int) * 2 - ((decoded maxFields 4).hnw.toNat : Int) ∧
      (Config.negDiv = .trunc ∨ Config.negDiv = .floor) :=
  ⟨by decide, by decide, by cases Config.negDiv <;> simp⟩

theorem witness_NegDivRounding : 1 ≤ (4 : Nat) ∧ 0 ≤ (10 : Int) ∧ ((4 : Nat) : Int) ∣ -8 := by decide

/-- The upper byte 48, 128, 47 and 129. -/
theorem witness_StidMeaning :
    (decoded maxFields 8).hv = true ∧ 0x3000 / 256 % 256 = 48 ∧ 0x80FF / 256 % 256 = 128 ∧ 0x2FFF / 256 % 256 = 47 ∧
      0x8100 / 256 % 256 = 129 := by decide

/-- A command that completes, one that raises, and a state with the reset event next (for StickyFlagsRecordFaults,
CommandsRaiseOnlyTheirExceptions, ResponseTagsByCommand). -/
theorem witness_commands_complete :
    (∃ t, exec .bps (decoded maxFields 8) = .next t) ∧ (∃ t, exec (.mkp 0 0 0) State.reset = .next t) ∧
      (Instr.mkp 0 0 0).wellFormed = true ∧ Instr.bps ≠ .rdst ∧ (State.reset.requestReset).input = .reset :: [] :=
  ⟨⟨_, rfl⟩, ⟨_, rfl⟩, by decide, by decide, by decide⟩

/-- LDW, MKP and HDR are each the head of some stream whose step is taken. -/
theorem witness_RegistersChangeOnlyByTheirCommand :
    (∃ t, step (sent [0x11000000, 7]) = .next t) ∧ (∃ t, step (sent [0x20000001]) = .next t) ∧
      (∃ t, step ((loaded 8).deliver [0x40000000]) = .next t) ∧
      (sent [0x11000000, 7]).input.head? ≠ some .reset :=
  ⟨⟨_, rfl⟩, ⟨_, rfl⟩, ⟨_, rfl⟩, by decide⟩

/-- A legal state with words, a parser and a header, whose step is taken. -/
theorem witness_EveryStepKeepsStateLegal :
    { parsing 8 7 0 32 with f := maxFields, hnw := 8, hv := true }.Inv ∧
      ∃ t, step ({ parsing 8 7 0 32 with f := maxFields, hnw := 8, hv := true }.deliver [0x30000000]) = .next t :=
  ⟨by decide, ⟨_, rfl⟩⟩

/-- Two different states the host cannot tell apart: the unloaded words, the parser and the header differ. -/
theorem witness_UnspecifiedRegistersAreUnobservable :
    State.reset.SeenSame { State.reset with w := words8, p := ⟨1, 2, 3⟩, f := maxFields, hnw := 9, freeNext := 5 } ∧
      State.reset ≠ { State.reset with w := words8, p := ⟨1, 2, 3⟩, f := maxFields, hnw := 9, freeNext := 5 } :=
  ⟨by constructor <;> simp [State.reset], by decide⟩

end Sys2Proof.Tests
end

section
/-! PROOF. The step of BFX by what stands at the head of the host's stream, and a head that is the reset event or an LDW
whose words have not all arrived (R66, R81, R240). -/

namespace Sys2Proof.Machine

theorem step_command {s : State} {i : Instr} {rest : List HostEvent} (h : fetch s.input = .command i rest) :
    step s = exec i (s.takeInput rest) := by
  simp [step, h]

theorem step_illegal {s : State} {rest : List HostEvent} (h : fetch s.input = .illegal rest) :
    step s = .next ((s.takeInput rest).raise .other .illegal) := by
  simp [step, h, raiseOutcome]

theorem step_reset {s : State} {rest : List HostEvent} (h : fetch s.input = .reset rest) :
    step s = .next (s.takeInput rest).hostReset := by
  simp [step, h]

theorem step_exhausted {s : State} (h : fetch s.input = .exhausted) : step s = .fault .streamExhausted := by
  simp [step, h]

theorem step_incomplete {s : State} (h : fetch s.input = .incomplete) : step s = .fault .incompleteLoad := by
  simp [step, h]

theorem step_resetInside {s : State} (h : fetch s.input = .resetInside) : step s = .refused .resetInsideCommand := by
  simp [step, h]

/-- The reset event is fetched exactly when it is the next event (R240). -/
theorem fetch_eq_reset_iff {events rest : List HostEvent} : fetch events = .reset rest ↔ events = .reset :: rest := by
  match events with
  | [] => simp [fetch]
  | .reset :: tail => simp [fetch]
  | .word c :: tail =>
    rw [fetch_word]
    split
    · simp
    · simp
    · split <;> simp

/-! ### The fields of a format S command word (R70, R72) -/

@[simp] theorem opField_selectorWord (op sel : BitVec 4) : opField (selectorWord op sel) = op := by
  apply BitVec.eq_of_toNat_eq
  rw [opField_toNat, selectorWord_toNat]
  omega

@[simp] theorem selField_selectorWord (op sel : BitVec 4) : selField (selectorWord op sel) = sel := by
  apply BitVec.eq_of_toNat_eq
  rw [selField_toNat, selectorWord_toNat]
  omega

@[simp] theorem selectorWord_low (op sel : BitVec 4) : (selectorWord op sel).extractLsb' 0 24 = 0 :=
  BitVec.extractLsb'_append_eq_right

/-- A command word of opcode 1 with a count of at most 8 begins an LDW (R76). -/
theorem decodeWord_load {n : Nat} (hn : n ≤ 8) :
    decodeWord (selectorWord 0x1 (BitVec.ofNat 4 n)) = .load n := by
  have e : (BitVec.ofNat 4 n).toNat = n := by
    rw [BitVec.toNat_ofNat]
    omega
  have hle : ¬8 < n := by omega
  simp [decodeWord, e, hle]

/-- An LDW whose data words have not all arrived is no complete command (R81). -/
theorem decode_load_incomplete {n : Nat} {first : List Word} (hn : n ≤ 8) (hf : first.length < n) :
    decode (selectorWord 0x1 (BitVec.ofNat 4 n) :: first) = .incomplete := by
  rw [decode, decodeWord_load hn]
  exact if_neg (by omega)

/-- A reset event before the last data word of an LDW stands inside the command (R240; log 7). -/
theorem fetch_load_resetInside {n : Nat} {first : List Word} (rest : List HostEvent) (hn : n ≤ 8)
    (hf : first.length < n) :
    fetch ((selectorWord 0x1 (BitVec.ofNat 4 n) :: first).map .word ++ .reset :: rest) = .resetInside := by
  have e : leadingWords (first.map .word ++ .reset :: rest) = first := by simp [leadingWords]
  rw [List.map_cons, List.cons_append, fetch_word, e, decode_load_incomplete hn hf]
  simp

end Sys2Proof.Machine
end

section
/-! PROOF. Legality of the state (R22, R26, R28, R31): what each effect of a command does to the invariant. -/

namespace Sys2Proof.Machine

/-- A field of `n` bits is below `2^n` (R103). -/
theorem field32_lt (w : Word) (s : BitVec 5) {n : Nat} (hn : n ≤ 32) : (field32 w s n).toNat < 2 ^ n := by
  have hp : 2 ^ n ≤ 2 ^ 32 := Nat.pow_le_pow_right (by omega) hn
  have hm : (mask n).toNat = 2 ^ n - 1 := by
    rw [mask, BitVec.toNat_ofNat, Nat.mod_eq_of_lt (by omega)]
  have hle : (field32 w s n).toNat ≤ 2 ^ n - 1 := by
    rw [field32, BitVec.toNat_and, hm]
    exact Nat.and_le_right
  have := Nat.two_pow_pos n
  omega

/-- The fields HDR latches have their table widths (R31, R141). -/
theorem latchHeader_table_lt {s : State} {ts : List Word} (hn : 4 ≤ s.nw.toNat)
    (h : s.extractAll headerTable.toList = .ok ts) (k : Fin 12) :
    (s.latchHeader ts).f[k].toNat < 2 ^ headerTable[k].bl.toNat := by
  rw [latchHeader_table_f s ts hn h]
  fin_cases k <;> exact field32_lt _ _ (by decide)

theorem State.Inv.takeInput {s : State} (h : s.Inv) (rest : List HostEvent) : (s.takeInput rest).Inv := h

theorem State.Inv.respond {s : State} (h : s.Inv) (tag : Tag) (value : Value) : (s.respond tag value).Inv := h

theorem State.Inv.raise {s : State} (h : s.Inv) (who : RaisedBy) (x : Exc) : (s.raise who x).Inv := by
  obtain ⟨hlen, hpar, hhdr⟩ := h
  refine ⟨by simpa [State.LengthLegal] using hlen, fun hv => ?_, fun hv => ?_⟩
  · obtain ⟨hpv, -⟩ : s.pv = true ∧ who ≠ .mkp := by simpa using hv
    rw [State.raise_p]
    exact hpar hpv
  · obtain ⟨hhv, -⟩ : s.hv = true ∧ who ≠ .hdr := by simpa using hv
    rw [State.raise_f, State.raise_hnw]
    exact hhdr hhv

theorem State.Inv.loadSequence {s : State} (h : s.Inv) {data : List Word} (hl : data.length ≤ 8) :
    (s.loadSequence data).Inv := by
  obtain ⟨_, hpar, hhdr⟩ := h
  refine ⟨?_, hpar, hhdr⟩
  rw [State.LengthLegal, State.loadSequence_nw, BitVec.toNat_ofNat]
  omega

theorem State.Inv.setParser {s : State} (h : s.Inv) {d : Descriptor} (hg : geomOK d.bi d.bl = true) :
    (s.setParser d).Inv := by
  obtain ⟨hlen, _, hhdr⟩ := h
  exact ⟨hlen, fun _ => hg, hhdr⟩

theorem State.Inv.latchHeader {s : State} (h : s.Inv) {ts : List Word} (hn : 4 ≤ s.nw.toNat)
    (hts : s.extractAll headerTable.toList = .ok ts) : (s.latchHeader ts).Inv := by
  obtain ⟨hlen, hpar, _⟩ := h
  exact ⟨hlen, hpar, fun _ => ⟨⟨hn, hlen⟩, latchHeader_table_lt hn hts⟩⟩

/-- The reset event leaves a legal state, whatever it finds (R35, R240). -/
theorem hostReset_inv (s : State) : s.hostReset.Inv := ⟨by simp [State.LengthLegal], by simp, by simp⟩

/-- Every command keeps the state legal. -/
theorem CommandEffect.keeps_inv {i : Instr} {s t : State} (h : CommandEffect i s t) (hs : s.Inv) : t.Inv := by
  cases h with
  | load data _ hl => exact (hs.loadSequence hl).respond _ _
  | parser d _ hg => exact (hs.setParser hg).respond _ _
  | header ts _ hn hts => exact (hs.latchHeader hn hts).respond _ _
  | answer tag v => exact hs.respond tag v
  | raised who x => exact hs.raise who x

/-- Settles O52: a step runs a command, refuses an illegal word or applies the reset event, and each keeps the
invariant. -/
theorem everyStepKeepsStateLegal : Obligations.EveryStepKeepsStateLegal := by
  intro s t hs h
  rcases step_next_cases h with ⟨i, rest, _, he⟩ | ⟨rest, _, rfl⟩ | ⟨rest, _, rfl⟩
  · exact (exec_effect he).keeps_inv (hs.takeInput rest)
  · exact (hs.takeInput rest).raise _ _
  · exact hostReset_inv _

/-- Settles O51: nothing is valid in the reset state, and `NW` is 0. -/
theorem resetStateIsLegal : Obligations.ResetStateIsLegal :=
  ⟨Nat.zero_le 8, nofun, nofun⟩

/-- Settles O50: the values of R35 are those of `State.reset`, and the status view is computed from them. -/
theorem stateAfterReset : Obligations.StateAfterReset :=
  ⟨rfl, rfl, rfl, rfl, rfl, rfl, rfl, rfl, by decide⟩

end Sys2Proof.Machine
end

section
/-! PROOF. What a command does, as one effect that two states share when they agree on what the command reads. -/

namespace Sys2Proof.Machine

/-! ### Reading the words of two states that agree on the loaded ones -/

/-- The two states hold the same word sequence: the same `NW`, and the same words below it (R22, R23). -/
structure State.WordsAgree (s t : State) : Prop where
  nw : s.nw = t.nw
  w : ∀ (i : Nat) (h : i < 8), i < s.nw.toNat → s.w[i] = t.w[i]

section
variable {s t : State} (h : s.WordsAgree t)
include h

theorem memRead1_congr (i : Nat) : s.memRead1 i = t.memRead1 i := by
  rcases memRead1_cases s i with ⟨h8, hn, e⟩ | ⟨hb, e⟩
  · rw [e, h.w i h8 hn, memRead1_ok t (h.nw ▸ hn) h8]
  · rw [e, memRead1_bounds t (h.nw ▸ hb)]

theorem memRead2_congr (i : Nat) : s.memRead2 i = t.memRead2 i := by
  simp only [State.memRead2, memRead1_congr h]

theorem extract_congr (d : Descriptor) : s.extract d = t.extract d := by
  simp only [State.extract, memRead1_congr h, memRead2_congr h]

theorem extractAll_congr (ds : List Descriptor) : s.extractAll ds = t.extractAll ds := by
  induction ds with
  | nil => rfl
  | cons d ds ih => simp only [State.extractAll, extract_congr h, ih]

end

/-! ### Effects -/

/-- What a command does to the state, with the values it has read already in it. -/
inductive Effect where
  /-- LDW's writes and its answer. -/
  | load (data : List Word)
  /-- MKP's writes and its answer. -/
  | parser (d : Descriptor)
  /-- HDR's writes and its answer. -/
  | header (ts : List Word)
  /-- An answer that carries a value. -/
  | answer (tag : Tag) (value : Value)
  /-- The raising of an exception. -/
  | raised (who : RaisedBy) (x : Exc)

/-- The state after an effect. -/
def Effect.apply : Effect → State → State
  | .load data, s => (s.loadSequence data).respondNone
  | .parser d, s => (s.setParser d).respondNone
  | .header ts, s => (s.latchHeader ts).respondNone
  | .answer tag value, s => s.respond tag value
  | .raised who x, s => s.raise who x

/-- The response an effect gives. -/
def Effect.response : Effect → Response
  | .load _ | .parser _ | .header _ => ⟨.ok, .none, 0⟩
  | .answer tag value => ⟨.ok, tag, value⟩
  | .raised _ x => ⟨x.status, .none, 0⟩

theorem Effect.apply_responses (e : Effect) (s : State) : (e.apply s).responses = s.responses ++ [e.response] := by
  cases e <;> simp [Effect.apply, Effect.response]

/-- The two outcomes are one and the same effect, on `s` and on `t`. -/
def SharedEffect (s t : State) (o o' : Host.Outcome State Fault Refusal) : Prop :=
  ∃ e : Effect, o = .next (e.apply s) ∧ o' = .next (e.apply t)

/-- The two states agree on everything that a command other than RDST reads. -/
structure State.ReadsAgree (s t : State) : Prop extends s.WordsAgree t where
  pv : s.pv = t.pv
  p : s.pv = true → s.p = t.p
  hv : s.hv = t.hv
  f : s.hv = true → s.f = t.f
  hnw : s.hv = true → s.hnw = t.hnw

theorem State.ReadsAgree.refl (s : State) : s.ReadsAgree s where
  nw := rfl
  w _ _ _ := rfl
  pv := rfl
  p _ := rfl
  hv := rfl
  f _ := rfl
  hnw _ := rfl

section
variable {s t : State}

/-- A header query has one effect on both states when its tag and value are the same wherever there is a header. -/
theorem headerQuery_shared {tag tag' : Tag} {v v' : Value} (h : s.ReadsAgree t)
    (hval : s.hv = true → tag = tag' ∧ v = v') :
    SharedEffect s t (headerQuery tag v s) (headerQuery tag' v' t) := by
  rcases headerQuery_cases tag v s with ⟨hv, e⟩ | ⟨hv, e⟩
  · obtain ⟨rfl, rfl⟩ := hval hv
    exact ⟨.answer tag v, e, headerQuery_header _ _ _ (h.hv ▸ hv)⟩
  · exact ⟨.raised .other .noHeader, e, headerQuery_noHeader _ _ _ (h.hv ▸ hv)⟩

theorem execExt_shared (h : s.ReadsAgree t) : SharedEffect s t (execExt s) (execExt t) := by
  rcases execExt_cases s with ⟨hpv, v, hx, e⟩ | ⟨hpv, hx, e⟩ | ⟨hpv, e⟩
  · refine ⟨.answer .uint v, e, ?_⟩
    rw [execExt, ← h.pv, if_pos hpv, ← h.p hpv, ← extract_congr h.toWordsAgree, hx]
    rfl
  · refine ⟨.raised .other .bounds, e, ?_⟩
    rw [execExt, ← h.pv, if_pos hpv, ← h.p hpv, ← extract_congr h.toWordsAgree, hx]
    rfl
  · refine ⟨.raised .other .noParser, e, ?_⟩
    rw [execExt, ← h.pv, hpv]
    rfl

theorem execHdr_shared (h : s.ReadsAgree t) : SharedEffect s t (execHdr s) (execHdr t) := by
  have hx := extractAll_congr h.toWordsAgree headerTable.toList
  rcases execHdr_cases s with ⟨_, ts, hs, e⟩ | ⟨hn, e⟩
  · exact ⟨.header ts, e, by rw [execHdr, ← hx, hs]; rfl⟩
  · exact ⟨.raised .hdr .bounds, e, by rw [execHdr, ← hx, extractAll_table_bounds s hn]; rfl⟩

/-- A command has one and the same effect on two states that agree on what it reads. -/
theorem exec_shared {i : Instr} (h : s.ReadsAgree t) (hst : i = .rdst → s.statusView = t.statusView) :
    SharedEffect s t (exec i s) (exec i t) := by
  cases i with
  | ldw data =>
    by_cases hl : data.length ≤ 8
    · exact ⟨.load data, if_pos hl, if_pos hl⟩
    · exact ⟨.raised .other .illegal, if_neg hl, if_neg hl⟩
  | mkp wi bi bl =>
    by_cases hg : geomOK bi bl = true
    · exact ⟨.parser ⟨wi, bi, bl⟩, if_pos hg, if_pos hg⟩
    · exact ⟨.raised .mkp .geometry, if_neg hg, if_neg hg⟩
  | ext => exact execExt_shared h
  | hdr => exact execHdr_shared h
  | rdf field =>
    by_cases hf : field.toNat < 12
    · simp only [exec, execRdf, dif_pos hf]
      exact headerQuery_shared h fun hv => by rw [h.f hv]; trivial
    · exact ⟨.raised .other .illegal, dif_neg hf, dif_neg hf⟩
  | bps => exact headerQuery_shared h fun hv => by rw [h.f hv]; trivial
  | flb => exact headerQuery_shared h fun hv => by rw [h.f hv]; trivial
  | plb => exact headerQuery_shared h fun hv => by rw [h.f hv, h.hnw hv]; trivial
  | nch => exact headerQuery_shared h fun hv => by rw [h.f hv]; trivial
  | nsmp => exact headerQuery_shared h fun hv => by rw [h.f hv, h.hnw hv]; trivial
  | stid => exact headerQuery_shared h fun hv => by rw [h.f hv]; trivial
  | thid => exact headerQuery_shared h fun hv => by rw [h.f hv]; trivial
  | ver => exact headerQuery_shared h fun hv => by rw [h.f hv]; trivial
  | isleg => exact headerQuery_shared h fun hv => by rw [h.f hv]; trivial
  | iscpx => exact headerQuery_shared h fun hv => by rw [h.f hv]; trivial
  | isval => exact headerQuery_shared h fun hv => by rw [h.f hv]; trivial
  | rdst => exact ⟨.answer .uint (zext64 s.statusView), rfl, by rw [hst rfl]; rfl⟩

end

/-- Settles O15: a command has an effect on every state, so it answers the state after that effect. -/
theorem everyCommandCompletes : Obligations.EveryCommandCompletes := by
  intro i s
  obtain ⟨e, h, _⟩ := exec_shared (i := i) (State.ReadsAgree.refl s) fun _ => rfl
  exact ⟨e.apply s, h⟩

end Sys2Proof.Machine
end

section
/-! PROOF. What the host cannot see (R23, R26, R28; U1, U2): every update of the state takes two states it cannot tell
apart to two such states, and so does every step. -/

namespace Sys2Proof.Machine

/-- The host sees all that a command reads. -/
theorem State.SeenSame.readsAgree {s t : State} (h : s.SeenSame t) : s.ReadsAgree t where
  nw := h.nw
  w := h.w
  pv := h.pv
  p := h.p
  hv := h.hv
  f := h.f
  hnw := h.hnw

/-- The status view shows `HNW` only while there is a header (R29). -/
theorem State.SeenSame.statusView {s t : State} (h : s.SeenSame t) : s.statusView = t.statusView := by
  have hhnw : (if s.hv then s.hnw else 0#4) = if t.hv then t.hnw else 0#4 := by
    rw [← h.hv]
    split
    · next hv => exact h.hnw hv
    · rfl
  rw [State.statusView, State.statusView, hhnw, h.nw, h.pv, h.hv, h.ge, h.be, h.ie, h.np, h.nh]

section
variable {s t : State} (h : s.SeenSame t)
include h

theorem State.SeenSame.takeInput (rest : List HostEvent) : (s.takeInput rest).SeenSame (t.takeInput rest) :=
  { h with input := rfl }

theorem State.SeenSame.respond (tag : Tag) (v : Value) : (s.respond tag v).SeenSame (t.respond tag v) :=
  { h with responses := by simp [h.responses] }

theorem State.SeenSame.loadSequence (data : List Word) : (s.loadSequence data).SeenSame (t.loadSequence data) :=
  { h with
    nw := rfl
    w := fun i h8 hi => by
      have hi' : i < data.length := by
        rw [State.loadSequence_nw, BitVec.toNat_ofNat] at hi
        omega
      rw [loadSequence_w_get data s hi' h8, loadSequence_w_get data t hi' h8] }

theorem State.SeenSame.setParser (d : Descriptor) : (s.setParser d).SeenSame (t.setParser d) :=
  { h with pv := rfl, p := fun _ => rfl }

theorem State.SeenSame.latchHeader (ts : List Word) : (s.latchHeader ts).SeenSame (t.latchHeader ts) :=
  { h with hv := rfl, f := fun _ => rfl, hnw := fun _ => h.nw }

theorem State.SeenSame.raise (who : RaisedBy) (x : Exc) : (s.raise who x).SeenSame (t.raise who x) where
  nw := by simp [h.nw]
  w i h8 hi := by
    rw [State.raise_nw] at hi
    simp [h.w i h8 hi]
  pv := by simp [h.pv]
  p hv := by
    obtain ⟨hpv, -⟩ : s.pv = true ∧ who ≠ .mkp := by simpa using hv
    simp [h.p hpv]
  hv := by simp [h.hv]
  f hv := by
    obtain ⟨hhv, -⟩ : s.hv = true ∧ who ≠ .hdr := by simpa using hv
    simp [h.f hhv]
  hnw hv := by
    obtain ⟨hhv, -⟩ : s.hv = true ∧ who ≠ .hdr := by simpa using hv
    simp [h.hnw hhv]
  ge := by simp [h.ge]
  be := by simp [h.be]
  ie := by simp [h.ie]
  np := by simp [h.np]
  nh := by simp [h.nh]
  input := by simp [h.input]
  responses := by simp [h.responses]

theorem Effect.apply_seenSame (e : Effect) : (e.apply s).SeenSame (e.apply t) := by
  cases e with
  | load data => exact (h.loadSequence data).respond _ _
  | parser d => exact (h.setParser d).respond _ _
  | header ts => exact (h.latchHeader ts).respond _ _
  | answer tag v => exact h.respond tag v
  | raised who x => exact h.raise who x

/-- A command's outcomes on two states the host cannot tell apart are themselves such. -/
theorem exec_seenSame (i : Instr) : SeenSameOutcome (exec i s) (exec i t) := by
  obtain ⟨e, es, et⟩ := exec_shared (i := i) h.readsAgree fun _ => h.statusView
  rw [es, et]
  exact Effect.apply_seenSame h e

end

/-- The registers that reset gives a value have that value (R35). -/
structure State.IsReset (s : State) : Prop where
  nw : s.nw = 0
  pv : s.pv = false
  hv : s.hv = false
  ge : s.ge = false
  be : s.be = false
  ie : s.ie = false
  np : s.np = false
  nh : s.nh = false

theorem hostReset_isReset (s : State) : s.hostReset.IsReset := by
  constructor <;> rfl

/-- After reset there is nothing to see but what has been sent and answered (R35, R240). -/
theorem State.IsReset.seenSame {s t : State} (hs : s.IsReset) (ht : t.IsReset) (hin : s.input = t.input)
    (hre : s.responses = t.responses) : s.SeenSame t where
  nw := hs.nw.trans ht.nw.symm
  w i _ hi := by simp [hs.nw] at hi
  pv := hs.pv.trans ht.pv.symm
  p hv := absurd (hs.pv.symm.trans hv) Bool.false_ne_true
  hv := hs.hv.trans ht.hv.symm
  f hv := absurd (hs.hv.symm.trans hv) Bool.false_ne_true
  hnw hv := absurd (hs.hv.symm.trans hv) Bool.false_ne_true
  ge := hs.ge.trans ht.ge.symm
  be := hs.be.trans ht.be.symm
  ie := hs.ie.trans ht.ie.symm
  np := hs.np.trans ht.np.symm
  nh := hs.nh.trans ht.nh.symm
  input := hin
  responses := hre

/-- Settles O53: the head of the stream is the same in both states, and whatever the step does with it keeps them
alike. -/
theorem unspecifiedRegistersAreUnobservable : Obligations.UnspecifiedRegistersAreUnobservable := by
  intro s t h
  have hin := h.input
  cases hf : fetch s.input with
  | command i rest =>
    rw [step_command hf, step_command (hin ▸ hf)]
    exact exec_seenSame (h.takeInput rest) i
  | illegal rest =>
    rw [step_illegal hf, step_illegal (hin ▸ hf)]
    exact (h.takeInput rest).raise _ _
  | reset rest =>
    rw [step_reset hf, step_reset (hin ▸ hf)]
    exact (hostReset_isReset _).seenSame (hostReset_isReset _) rfl h.responses
  | exhausted =>
    rw [step_exhausted hf, step_exhausted (hin ▸ hf)]
    rfl
  | incomplete =>
    rw [step_incomplete hf, step_incomplete (hin ▸ hf)]
    rfl
  | resetInside =>
    rw [step_resetInside hf, step_resetInside (hin ▸ hf)]
    rfl

/-- Settles O10: the head of the stream is the reset event, or stands inside an LDW. -/
theorem resetEventResets : Obligations.ResetEventResets := by
  refine ⟨fun s rest h => ?_, fun s n first rest hn hf h => ?_⟩
  · have hr : (s.takeInput rest).hostReset.IsReset := hostReset_isReset _
    exact ⟨_, step_reset (fetch_eq_reset_iff.mpr h), hr.nw, hr.pv, hr.hv, hr.ge, hr.be, hr.ie, hr.np, hr.nh, rfl, rfl,
      hr.seenSame (by constructor <;> rfl) rfl rfl⟩
  · exact step_resetInside (h ▸ fetch_load_resetInside rest hn hf)

end Sys2Proof.Machine
end

section
/-! PROOF. What a step leaves unchanged: the register groups (R36) and the sticky flags (R30). -/

namespace Sys2Proof.Machine

/-- Raising leaves the parser alone unless MKP raised (R210). -/
theorem raise_parserKept (s : State) {who : RaisedBy} (x : Exc) (h : who ≠ .mkp) : s.ParserKept (s.raise who x) :=
  ⟨State.raise_p who x s, by simp [h]⟩

/-- Raising leaves the header alone unless HDR raised (R210). -/
theorem raise_headerKept (s : State) {who : RaisedBy} (x : Exc) (h : who ≠ .hdr) : s.HeaderKept (s.raise who x) :=
  ⟨State.raise_f who x s, State.raise_hnw who x s, by simp [h]⟩

section
variable {i : Instr} {s t : State} (h : CommandEffect i s t)
include h

theorem CommandEffect.wordsKept_or : s.WordsKept t ∨ ∃ data, i = .ldw data := by
  cases h with
  | load data hi => exact .inr ⟨data, hi⟩
  | parser | header | answer => exact .inl ⟨rfl, rfl⟩
  | raised who x => exact .inl ⟨State.raise_w who x s, State.raise_nw who x s⟩

theorem CommandEffect.parserKept_or : s.ParserKept t ∨ ∃ wi bi bl, i = .mkp wi bi bl := by
  cases h with
  | parser d hi => exact .inr ⟨d.wi, d.bi, d.bl, hi⟩
  | load | header | answer => exact .inl ⟨rfl, rfl⟩
  | raised who x hmkp =>
    by_cases hw : who = .mkp
    · exact .inr (hmkp hw).2
    · exact .inl (raise_parserKept s x hw)

theorem CommandEffect.headerKept_or : s.HeaderKept t ∨ i = .hdr := by
  cases h with
  | header ts hi => exact .inr hi
  | load | parser | answer => exact .inl ⟨rfl, rfl, rfl⟩
  | raised who x _ hhdr =>
    by_cases hw : who = .hdr
    · exact .inr (hhdr hw)
    · exact .inl (raise_headerKept s x hw)

end

/-- Settles O49: by what the step did; consuming input touches no register, and an illegal word only raises. -/
theorem registersChangeOnlyByTheirCommand : Obligations.RegistersChangeOnlyByTheirCommand := by
  intro s t h hne
  rcases step_next_cases h with ⟨i, rest, hf, he⟩ | ⟨rest, _, rfl⟩ | ⟨rest, hf, _⟩
  · have hc := exec_effect he
    refine ⟨hc.wordsKept_or.imp_right ?_, hc.parserKept_or.imp_right ?_, hc.headerKept_or.imp_right ?_⟩
    · rintro ⟨data, rfl⟩
      exact ⟨data, rest, hf⟩
    · rintro ⟨wi, bi, bl, rfl⟩
      exact ⟨wi, bi, bl, rest, hf⟩
    · rintro rfl
      exact ⟨rest, hf⟩
  · exact ⟨.inl ⟨State.raise_w _ _ _, State.raise_nw _ _ _⟩, .inl (raise_parserKept _ _ (by decide)),
      .inl (raise_headerKept _ _ (by decide))⟩
  · exact absurd (by rw [fetch_eq_reset_iff.mp hf]; rfl) hne

/-! ### The sticky flags -/

/-- An exception is reported with a status of its own (R206). -/
theorem status_eq_status_iff {x y : Exc} : x.status = y.status ↔ x = y := by
  cases x <;> cases y <;> decide

/-- No exception is reported as `OK` (R206). -/
theorem ok_ne_status (x : Exc) : Status.ok ≠ x.status := by
  cases x <;> decide

theorem sticky_raise (s : State) (who : RaisedBy) (x y : Exc) :
    (s.raise who x).sticky y = (s.sticky y || decide (x = y)) := by
  have hc : (s.clearValid who).sticky y = s.sticky y := by cases who <;> rfl
  have he : (s.raise who x).sticky y = ((s.clearValid who).setSticky x).sticky y := by cases y <;> rfl
  rw [he, sticky_setSticky, hc]

/-- An answer with status `OK` comes with no flag raised. -/
theorem sticky_of_ok {s t : State} (h : t.sticky = s.sticky) (x : Exc) :
    t.sticky x = (s.sticky x || decide (Status.ok = x.status)) := by
  simp [h, ok_ne_status]

/-- A command's response names the exception whose flag it sets, if any (R30, R210). -/
theorem CommandEffect.sticky {i : Instr} {s t : State} (h : CommandEffect i s t) :
    ∃ r : Response, t.responses = s.responses ++ [r] ∧
      ∀ x : Exc, t.sticky x = (s.sticky x || decide (r.status = x.status)) := by
  cases h with
  | load | parser | header | answer => exact ⟨_, rfl, sticky_of_ok rfl⟩
  | raised who x => exact ⟨_, State.raise_responses who x s, fun y => by simp [sticky_raise, status_eq_status_iff]⟩

/-- Settles O46: the flags after a command by its effect; the reset event clears all five; and a command other than RDST
reads no flag, so it has the same effect, and so the same response, with any. -/
theorem stickyFlagsRecordFaults : Obligations.StickyFlagsRecordFaults := by
  refine ⟨fun i s t h => (exec_effect h).sticky, fun s rest h => ?_, fun i s ge be ie np nh hi => ?_⟩
  · exact ⟨_, step_reset (fetch_eq_reset_iff.mpr h), fun x => by cases x <;> rfl⟩
  · have hagree : s.ReadsAgree { s with ge := ge, be := be, ie := ie, np := np, nh := nh } :=
      { State.ReadsAgree.refl s with }
    obtain ⟨e, es, et⟩ := exec_shared hagree fun hr => absurd hr hi
    exact ⟨_, _, es, et, by rw [e.apply_responses, e.apply_responses]⟩

end Sys2Proof.Machine
end

section
/-! PROOF. The layout of the status view (R29) and RDST (R190). -/

namespace Sys2Proof.Machine

/-- A four-bit field, placed at bit `k` of a word. -/
theorem nibble_shiftLeft_getLsbD (n : BitVec 4) {k : Nat} (hk : k ≤ 28) (b : Nat) :
    (n.setWidth 32 <<< k).getLsbD b = (decide (k ≤ b) && n.getLsbD (b - k)) := by
  by_cases hb : b < k + 4
  · simp [show b < 32 by omega, ← decide_not]
  · simp [BitVec.getLsbD_of_ge n (b - k) (by omega)]

/-- One bit, placed at bit `k` of a word. -/
theorem bit1_shiftLeft_getLsbD (x : Bool) {k : Nat} (hk : k < 32) (b : Nat) :
    ((bit1 x).setWidth 32 <<< k).getLsbD b = (decide (b = k) && x) := by
  by_cases e : b = k
  · subst e
    simp [bit1, hk]
  · have hplace : k ≤ b → b - k ≠ 0 := by omega
    simpa [bit1, BitVec.getLsbD_ofBool, e] using fun _ hle _ heq => absurd heq (hplace hle)

/-- The status view, bit by bit (R29). -/
theorem statusView_getLsbD (s : State) (b : Nat) :
    s.statusView.getLsbD b =
      (s.nw.getLsbD b || (decide (4 ≤ b) && (if s.hv then s.hnw else 0#4).getLsbD (b - 4)) ||
        (decide (b = 8) && s.pv) || (decide (b = 9) && s.hv) || (decide (b = 16) && s.ge) ||
        (decide (b = 17) && s.be) || (decide (b = 18) && s.ie) || (decide (b = 19) && s.np) ||
        (decide (b = 20) && s.nh)) := by
  have hnw : (s.nw.setWidth 32).getLsbD b = s.nw.getLsbD b := by
    simpa using nibble_shiftLeft_getLsbD s.nw (Nat.zero_le 28) b
  simp (disch := omega) only [State.statusView, BitVec.getLsbD_or, hnw, nibble_shiftLeft_getLsbD,
    bit1_shiftLeft_getLsbD]

/-- The bits of a slice of the status view. -/
theorem statusView_slice_eq {s : State} {start len : Nat} {v : BitVec len}
    (h : ∀ j < len, s.statusView.getLsbD (start + j) = v.getLsbD j) : s.statusView.extractLsb' start len = v := by
  apply BitVec.eq_of_getLsbD_eq
  intro j hj
  rw [BitVec.getLsbD_extractLsb', h j hj, decide_eq_true hj, Bool.true_and]

/-- `NW` stands in bits 3:0 (R29). -/
theorem statusView_nw (s : State) : s.statusView.extractLsb' 0 4 = s.nw := by
  refine statusView_slice_eq fun j hj => ?_
  rw [statusView_getLsbD]
  grind

/-- `HNW`, or 0 while there is no header, stands in bits 7:4 (R29). -/
theorem statusView_hnw (s : State) : s.statusView.extractLsb' 4 4 = if s.hv then s.hnw else 0 := by
  refine statusView_slice_eq fun j hj => ?_
  rw [statusView_getLsbD, BitVec.getLsbD_of_ge s.nw (4 + j) (by omega), Nat.add_sub_cancel_left]
  grind

/-- Bits 15:10 and 31:21 are 0 (R29). -/
theorem statusView_getLsbD_reserved (s : State) {b : Nat} (h : 10 ≤ b ∧ b < 16 ∨ 21 ≤ b) :
    s.statusView.getLsbD b = false := by
  rw [statusView_getLsbD, BitVec.getLsbD_of_ge s.nw b (by omega), BitVec.getLsbD_of_ge _ (b - 4) (by omega)]
  grind

/-- A word of opcode 7 with another bit set is no command (R77, R190). -/
theorem decodeWord_rdst_reserved {c : Word} (hop : opField c = 7) (h : c.extractLsb' 0 28 ≠ 0) :
    decodeWord c = .illegal := by
  have hlow : ¬c.extractLsb' 0 28 = 0#28 := h
  simp [decodeWord, hop, hlow]

/-- Settles O43: RDST's answer is the status view, read bit by bit. -/
theorem rdstMeaning : Obligations.RdstMeaning := by
  refine ⟨rfl, fun s => ⟨s.statusView, rfl, statusView_nw s, statusView_hnw s, ?_⟩,
    fun c hop h => decodeWord_rdst_reserved hop h⟩
  have hlow : s.statusView.extractLsb' 10 6 = 0 :=
    statusView_slice_eq fun j hj => by simpa using statusView_getLsbD_reserved s (b := 10 + j) (by omega)
  have hhigh : s.statusView.extractLsb' 21 11 = 0 :=
    statusView_slice_eq fun j hj => by simpa using statusView_getLsbD_reserved s (b := 21 + j) (by omega)
  simp only [statusView_getLsbD, hlow, hhigh]
  simp

end Sys2Proof.Machine
end

section
/-! PROOF. The words of a byte stream (R55), and reads of the word file (R53). -/

namespace Sys2Proof.Machine

/-- Bit `b` of a word of four bytes is bit `b mod 8` of its byte `b div 8` (R55). -/
theorem wordOfBytes_getLsbD (byte : Nat → Byte) {b : Nat} (hb : b < 32) :
    (wordOfBytes (byte 0) (byte 1) (byte 2) (byte 3)).getLsbD b = (byte (b / 8)).getLsbD (b % 8) := by
  simp only [wordOfBytes, BitVec.getLsbD_append]
  split_ifs
  · rw [show b / 8 = 0 by omega, show b % 8 = b by omega]
  · rw [show b / 8 = 1 by omega, show b % 8 = b - 8 by omega]
  · rw [show b / 8 = 2 by omega, show b % 8 = b - 8 - 8 by omega]
  · rw [show b / 8 = 3 by omega, show b % 8 = b - 8 - 8 - 8 by omega]

/-- Word `j` of a byte stream is made of its bytes `4j` to `4j + 3` (R55, R66). -/
theorem wordsOfBytes_getElem? {bs : List Byte} {j : Nat} (h : 4 * j + 3 < bs.length) :
    (wordsOfBytes bs).1[j]? =
      some (wordOfBytes (bs.getD (4 * j) 0) (bs.getD (4 * j + 1) 0) (bs.getD (4 * j + 2) 0)
        (bs.getD (4 * j + 3) 0)) := by
  induction bs using wordsOfBytes.induct generalizing j with
  | case1 b0 b1 b2 b3 rest ih =>
    cases j with
    | zero => rfl
    | succ j =>
      have hrest : 4 * j + 3 < rest.length := by
        simp only [List.length_cons] at h
        omega
      simpa [wordsOfBytes, Nat.mul_succ] using ih hrest
  | case2 leftover hshort =>
    match leftover, h with
    | b0 :: b1 :: b2 :: b3 :: rest, _ => exact absurd rfl (hshort b0 b1 b2 b3 rest)

/-- Settles O7: the word is put together from its four bytes, as a number and bit by bit. -/
theorem wordsAreLittleEndianBytes : Obligations.WordsAreLittleEndianBytes := fun bs j h =>
  ⟨_, wordsOfBytes_getElem? h, wordOfBytes_toNat _ _ _ _,
    fun _ hb => wordOfBytes_getLsbD (fun k => bs.getD (4 * j + k) 0) hb⟩

/-- Settles O20: the two cases of a one-word read and of a two-word read. -/
theorem readsAreBoundsChecked : Obligations.ReadsAreBoundsChecked := fun s _ _ _ =>
  ⟨fun h => memRead1_bounds s (.inl h), fun h8 hn => memRead1_ok s hn h8, fun h => memRead2_bounds s (.inl h),
    fun h8 hn => memRead2_ok s hn h8⟩

end Sys2Proof.Machine
end

section
/-! PROOF. The words of one command at the head of a stream, of words (R80) or of the host's events (R66). -/

namespace Sys2Proof.Machine

/-- The words of one complete command and nothing more (R80): one word, or LDW's command word and its data words. -/
inductive CommandWords : Instr → List Word → Prop where
  | single {c : Word} {i : Instr} : decodeWord c = .single i → CommandWords i [c]
  | load {c : Word} {data : List Word} : decodeWord c = .load data.length → CommandWords (.ldw data) (c :: data)

/-- The decoder reads a command exactly where the command's words stand, whatever comes after them (R80). -/
theorem decode_eq_command_iff {ws tail : List Word} {i : Instr} :
    decode ws = .command i tail ↔ ∃ cmd, CommandWords i cmd ∧ ws = cmd ++ tail := by
  constructor
  · intro h
    match ws with
    | [] => cases h
    | c :: rest =>
      rw [decode] at h
      split at h
      · cases h
      · next e =>
        cases h
        exact ⟨[c], .single e, rfl⟩
      · next n e =>
        split at h
        · next hn =>
          cases h
          have hlen : (rest.take n).length = n := List.length_take_of_le hn
          exact ⟨c :: rest.take n, .load (by rw [e, hlen]), by simp⟩
        · cases h
  · rintro ⟨cmd, hc, rfl⟩
    cases hc with
    | single e => simp [decode, e]
    | load e => simp [decode, e]

/-- The decoder refuses exactly one word, an illegal one (R77). -/
theorem decode_cons_eq_illegal_iff {c : Word} {ws tail : List Word} :
    decode (c :: ws) = .illegal tail ↔ decodeWord c = .illegal ∧ tail = ws := by
  rw [decode]
  split
  · next e => simp [e, eq_comm]
  · next e => simp [e]
  · next e => split <;> simp [e]

/-- LDW is never decided by its command word alone: no branch of the decoder answers it so (R76, R80). -/
theorem decodeWord_ne_single_ldw (c : Word) (data : List Word) : decodeWord c ≠ .single (.ldw data) := by
  simp [decodeWord, decodeProperty, apply_ite (· = Verdict.single (.ldw data))]

/-- A command that its command word decides alone is one word long (R80). -/
theorem decodeWord_single_length {c : Word} {i : Instr} (h : decodeWord c = .single i) : i.lengthWords = 1 := by
  cases i with
  | ldw data => exact absurd h (decodeWord_ne_single_ldw c data)
  | _ => rfl

theorem CommandWords.length {i : Instr} {cmd : List Word} (h : CommandWords i cmd) : cmd.length = i.lengthWords := by
  cases h with
  | single e => exact (decodeWord_single_length e).symm
  | load => simp [Instr.lengthWords, Nat.add_comm]

theorem CommandWords.exists_cons {i : Instr} {cmd : List Word} (h : CommandWords i cmd) :
    ∃ c data, cmd = c :: data := by
  cases h with
  | single => exact ⟨_, _, rfl⟩
  | load => exact ⟨_, _, rfl⟩

theorem exists_eq_leadingWords_append (events : List HostEvent) :
    ∃ others, events = (leadingWords events).map .word ++ others := by
  induction events with
  | nil => exact ⟨[], rfl⟩
  | cons e events ih =>
    cases e with
    | word c =>
      obtain ⟨others, h⟩ := ih
      exact ⟨others, congrArg (HostEvent.word c :: ·) h⟩
    | reset => exact ⟨_, rfl⟩

/-- A command is fetched exactly where its words stand at the head of the stream, and what is left is all that comes
after them (R66, R80). -/
theorem fetch_eq_command_iff {events rest : List HostEvent} {i : Instr} :
    fetch events = .command i rest ↔ ∃ cmd, CommandWords i cmd ∧ events = cmd.map .word ++ rest := by
  constructor
  · intro h
    match events with
    | [] => cases h
    | .reset :: _ => cases h
    | .word c :: events =>
      rw [fetch_word] at h
      split at h
      · next tail hd =>
        cases h
        obtain ⟨cmd, hc, hcmd⟩ := decode_eq_command_iff.mp hd
        obtain ⟨others, hothers⟩ := exists_eq_leadingWords_append (.word c :: events)
        have hin : .word c :: events = cmd.map HostEvent.word ++ (tail.map HostEvent.word ++ others) := by
          rw [← List.append_assoc, ← List.map_append, ← hcmd]
          exact hothers
        refine ⟨cmd, hc, ?_⟩
        rw [← hc.length, hin]
        simp
      · cases h
      · split at h <;> cases h
  · rintro ⟨cmd, hc, rfl⟩
    obtain ⟨c, data, rfl⟩ := hc.exists_cons
    have hd : decode (c :: (data ++ leadingWords rest)) = .command i (leadingWords rest) :=
      decode_eq_command_iff.mpr ⟨_, hc, rfl⟩
    simp [fetch_word, hd, ← hc.length]

/-- A word is refused exactly where it is illegal and next in the stream, and it alone is consumed (R77). -/
theorem fetch_eq_illegal_iff {events rest : List HostEvent} :
    fetch events = .illegal rest ↔ ∃ c, decodeWord c = .illegal ∧ events = .word c :: rest := by
  constructor
  · intro h
    match events with
    | [] => cases h
    | .reset :: _ => cases h
    | .word c :: events =>
      rw [fetch_word] at h
      split at h
      · cases h
      · next hd =>
        cases h
        exact ⟨c, (decode_cons_eq_illegal_iff.mp hd).1, rfl⟩
      · split at h <;> cases h
  · rintro ⟨c, hc, rfl⟩
    rw [fetch_word, decode_cons_eq_illegal_iff.mpr ⟨hc, rfl⟩]

/-- Settles O9: the words at the head of the stream begin with the command's own. -/
theorem stepRunsDecodedCommand : Obligations.StepRunsDecodedCommand := by
  intro s i ws tail rest _ hd hin
  obtain ⟨cmd, hc, rfl⟩ := decode_eq_command_iff.mp hd
  exact step_command (fetch_eq_command_iff.mpr ⟨cmd, hc, by rw [hin, List.map_append, List.append_assoc]⟩)

end Sys2Proof.Machine
end

section
/-! PROOF. What a step does to the host's side of the port: the stream and the responses (R66, R82, R247). -/

namespace Sys2Proof.Machine

/-- No effect reads or writes the stream, so consuming input before it or after it is the same. -/
theorem Effect.apply_takeInput (e : Effect) (rest : List HostEvent) (s : State) :
    e.apply (s.takeInput rest) = (e.apply s).takeInput rest := by
  cases e with
  | load | parser | header | answer => rfl
  | raised who x => cases who <;> cases x <;> rfl

/-- A command does the same whatever stands in the stream behind it (R61). -/
theorem exec_takeInput {i : Instr} {s t : State} (h : exec i s = .next t) (more : List HostEvent) :
    exec i (s.takeInput more) = .next (t.takeInput more) := by
  obtain ⟨e, hs, hmore⟩ :=
    exec_shared (i := i) (t := s.takeInput more) { State.ReadsAgree.refl s with } fun _ => rfl
  cases hs.symm.trans h
  rw [hmore, e.apply_takeInput]

theorem CommandEffect.input {i : Instr} {s t : State} (h : CommandEffect i s t) : t.input = s.input := by
  cases h with
  | load | parser | header | answer => rfl
  | raised who x => exact State.raise_input who x s

/-- The step from `s` to `t` takes `head` off the stream and leaves `rest`. What it does is decided by `head` alone,
which is the reset event, or begins with a word and is answered once. -/
structure StepTakes (head rest : List HostEvent) (s t : State) : Prop where
  input : s.input = head ++ rest
  left : t.input = rest
  anyRest : ∀ more, step (s.takeInput (head ++ more)) = .next (t.takeInput more)
  answer : head = [.reset] ∧ t.responses = s.responses ∨
    ∃ c data r, head = .word c :: data ∧ t.responses = s.responses ++ [r]

/-- Every step that is taken takes a head off the stream: the words of a command, an illegal word, or the reset
event. -/
theorem step_takes {s t : State} (h : step s = .next t) : ∃ head rest, StepTakes head rest s t := by
  rcases step_next_cases h with ⟨i, rest, hf, he⟩ | ⟨rest, hf, rfl⟩ | ⟨rest, hf, rfl⟩
  · obtain ⟨cmd, hc, hin⟩ := fetch_eq_command_iff.mp hf
    obtain ⟨c, data, hcmd⟩ := hc.exists_cons
    obtain ⟨r, hr, -⟩ := (exec_effect he).sticky
    refine ⟨cmd.map .word, rest, hin, (exec_effect he).input, fun more => ?_,
      .inr ⟨c, data.map .word, r, by simp [hcmd], hr⟩⟩
    rw [step_command (fetch_eq_command_iff.mpr ⟨cmd, hc, rfl⟩)]
    exact exec_takeInput he more
  · obtain ⟨c, hc, hin⟩ := fetch_eq_illegal_iff.mp hf
    exact ⟨[.word c], rest, hin, State.raise_input _ _ _,
      fun more => step_illegal (fetch_eq_illegal_iff.mpr ⟨c, hc, rfl⟩),
      .inr ⟨c, [], _, rfl, State.raise_responses _ _ _⟩⟩
  · exact ⟨[.reset], rest, fetch_eq_reset_iff.mp hf, rfl,
      fun more => step_reset (s := s.takeInput (.reset :: more)) (fetch_eq_reset_iff.mpr rfl), .inl ⟨rfl, rfl⟩⟩

/-- Settles O12: the head of the stream that the step takes decides the step, whatever comes after it. -/
theorem laterEventsDoNotMatter : Obligations.LaterEventsDoNotMatter := by
  intro s t later h
  obtain ⟨head, rest, hs⟩ := step_takes h
  rw [hs.input, hs.left, List.append_assoc]
  exact hs.anyRest (rest ++ later)

/-- Settles O13: the head that the step takes holds at least one event. -/
theorem stepConsumesItsInput : Obligations.StepConsumesItsInput := by
  intro s t h
  obtain ⟨head, rest, hs⟩ := step_takes h
  refine ⟨head.length, ?_, by simp [hs.input], by simp [hs.input, hs.left]⟩
  rcases hs.answer with ⟨rfl, _⟩ | ⟨c, data, r, rfl, _⟩ <;> simp

/-- Settles O14: the head that the step takes is the reset event, or begins with a word and is answered once. -/
theorem oneResponsePerCommand : Obligations.OneResponsePerCommand := by
  intro s t h
  obtain ⟨head, rest, hs⟩ := step_takes h
  rcases hs.answer with ⟨rfl, hr⟩ | ⟨c, data, r, rfl, hr⟩
  · exact .inl ⟨by simp [hs.input], hr⟩
  · exact .inr ⟨by simp [hs.input], r, hr⟩

end Sys2Proof.Machine
end

section
/-! PROOF. The slices of a command word (R70 to R72): which words are of format Z, S or M. -/

namespace Sys2Proof.Machine

/-- A slice of a word is 0 when the number it stands for is. -/
theorem slice_eq_zero_iff {c : Word} {start len : Nat} :
    c.extractLsb' start len = 0 ↔ c.toNat / 2 ^ start % 2 ^ len = 0 := by
  simp [← BitVec.toNat_inj, Nat.shiftRight_eq_div_pow]

theorem low24_eq_zero_iff {c : Word} :
    c.extractLsb' 0 24 = 0 ↔ c.extractLsb' 20 4 = 0 ∧ c.extractLsb' 0 20 = 0 := by
  simp only [slice_eq_zero_iff]
  omega

theorem low28_eq_zero_iff {c : Word} : c.extractLsb' 0 28 = 0 ↔ selField c = 0 ∧ c.extractLsb' 0 24 = 0 := by
  rw [selField]
  simp only [slice_eq_zero_iff]
  omega

/-- A word whose low 24 bits are 0 is of format S (R70, R72). -/
theorem eq_selectorWord {c : Word} (h : c.extractLsb' 0 24 = 0) : c = selectorWord (opField c) (selField c) := by
  rw [slice_eq_zero_iff] at h
  apply BitVec.eq_of_toNat_eq
  rw [selectorWord_toNat, opField_toNat, selField_toNat]
  omega

/-- A word whose low 28 bits are 0 is of format Z (R70, R72). -/
theorem eq_selectorWord_zero {c : Word} (h : c.extractLsb' 0 28 = 0) : c = selectorWord (opField c) 0 := by
  obtain ⟨hsel, hlow⟩ := low28_eq_zero_iff.mp h
  rw [← hsel]
  exact eq_selectorWord hlow

/-- A word of opcode 2 whose unused bits are 0 is of format M (R71, R72). -/
theorem eq_descriptorWord {c : Word} (hop : opField c = 2) (hsel : selField c = 0) (hhi : c.extractLsb' 20 4 = 0)
    (hmid : c.extractLsb' 13 3 = 0) : c = descriptorWord (wiField c) (biField c) (blField c) := by
  have hop' : (opField c).toNat = 2 := by rw [hop]; rfl
  rw [opField_toNat] at hop'
  rw [selField, slice_eq_zero_iff] at hsel
  rw [slice_eq_zero_iff] at hhi hmid
  apply BitVec.eq_of_toNat_eq
  rw [descriptorWord_toNat, wiField_toNat, biField_toNat, blField_toNat]
  omega

section
variable (wi : BitVec 4) (bi : BitVec 5) (bl : BitVec 8)

@[simp] theorem opField_descriptorWord : opField (descriptorWord wi bi bl) = 2 := by
  apply BitVec.eq_of_toNat_eq
  rw [opField_toNat, descriptorWord_toNat, show (2 : BitVec 4).toNat = 2 from rfl]
  omega

@[simp] theorem selField_descriptorWord : selField (descriptorWord wi bi bl) = 0 := by
  rw [selField, slice_eq_zero_iff, descriptorWord_toNat]
  omega

@[simp] theorem wiField_descriptorWord : wiField (descriptorWord wi bi bl) = wi := by
  apply BitVec.eq_of_toNat_eq
  rw [wiField_toNat, descriptorWord_toNat]
  omega

@[simp] theorem biField_descriptorWord : biField (descriptorWord wi bi bl) = bi := by
  apply BitVec.eq_of_toNat_eq
  rw [biField_toNat, descriptorWord_toNat]
  omega

@[simp] theorem blField_descriptorWord : blField (descriptorWord wi bi bl) = bl := by
  apply BitVec.eq_of_toNat_eq
  rw [blField_toNat, descriptorWord_toNat]
  omega

@[simp] theorem descriptorWord_high : (descriptorWord wi bi bl).extractLsb' 20 4 = 0 := by
  rw [slice_eq_zero_iff, descriptorWord_toNat]
  omega

@[simp] theorem descriptorWord_middle : (descriptorWord wi bi bl).extractLsb' 13 3 = 0 := by
  rw [slice_eq_zero_iff, descriptorWord_toNat]
  omega

end

/-! ### The decoder, one equation for each opcode (R76) -/

section
variable {c : Word}

theorem decodeWord_op1 (h : opField c = 1) :
    decodeWord c =
      if c.extractLsb' 0 24 ≠ 0 ∨ 8 < (selField c).toNat then .illegal else .load (selField c).toNat := by
  rw [decodeWord, h]
  rfl

theorem decodeWord_op2 (h : opField c = 2) :
    decodeWord c =
      if selField c ≠ 0 ∨ c.extractLsb' 20 4 ≠ 0 ∨ c.extractLsb' 13 3 ≠ 0 then .illegal
      else .single (.mkp (wiField c) (biField c) (blField c)) := by
  rw [decodeWord, h]
  rfl

theorem decodeWord_op3 (h : opField c = 3) :
    decodeWord c = if c.extractLsb' 0 28 ≠ 0 then .illegal else .single .ext := by
  rw [decodeWord, h]
  rfl

theorem decodeWord_op4 (h : opField c = 4) :
    decodeWord c = if c.extractLsb' 0 28 ≠ 0 then .illegal else .single .hdr := by
  rw [decodeWord, h]
  rfl

theorem decodeWord_op5 (h : opField c = 5) :
    decodeWord c =
      if c.extractLsb' 0 24 ≠ 0 ∨ 11 < (selField c).toNat then .illegal else .single (.rdf (selField c)) := by
  rw [decodeWord, h]
  rfl

theorem decodeWord_op6 (h : opField c = 6) :
    decodeWord c = if c.extractLsb' 0 24 ≠ 0 then .illegal else decodeProperty (selField c) := by
  rw [decodeWord, h]
  rfl

theorem decodeWord_op7 (h : opField c = 7) :
    decodeWord c = if c.extractLsb' 0 28 ≠ 0 then .illegal else .single .rdst := by
  rw [decodeWord, h]
  rfl

/-- The opcodes that begin a command are 1 to 7 (R74). -/
theorem opcode_cases (op : BitVec 4) :
    op = 1 ∨ op = 2 ∨ op = 3 ∨ op = 4 ∨ op = 5 ∨ op = 6 ∨ op = 7 ∨ op = 0 ∨ 8 ≤ op.toNat := by
  revert op
  decide

theorem decodeWord_unused (h : opField c = 0 ∨ 8 ≤ (opField c).toNat) : decodeWord c = .illegal := by
  have hne : ∀ k : BitVec 4, 0 < k.toNat → k.toNat < 8 → opField c ≠ k := by
    rintro k hpos hlt rfl
    rcases h with h | h
    · simp [h] at hpos
    · omega
  simp (disch := decide) only [decodeWord, if_neg (hne _ _ _)]

end

/-- The selector of opcode 6 is the number of the property (R74). -/
theorem decodeProperty_single : ∀ (sel : BitVec 4) (h : sel.toNat < 11),
    decodeProperty sel = .single (propertyCommands[sel.toNat]'h) := by
  decide

theorem encode_property : ∀ (sel : BitVec 4) (h : sel.toNat < 11),
    (propertyCommands[sel.toNat]'h).wellFormed = true ∧
      encode (propertyCommands[sel.toNat]'h) = [selectorWord 0x6 sel] := by
  decide

theorem decodeProperty_illegal : ∀ sel : BitVec 4, 11 ≤ sel.toNat → decodeProperty sel = .illegal := by
  decide

/-- What a verdict says of the command word it is given on: an LDW's command word, or the whole encoding of a command
(R70 to R74). -/
inductive VerdictOn (c : Word) : Verdict → Prop where
  | illegal : VerdictOn c .illegal
  | load {n : Nat} : n ≤ 8 → c = selectorWord 0x1 (BitVec.ofNat 4 n) → VerdictOn c (.load n)
  | single {i : Instr} : i.wellFormed = true → encode i = [c] → VerdictOn c (.single i)

theorem decodeProperty_verdict (sel : BitVec 4) : VerdictOn (selectorWord 0x6 sel) (decodeProperty sel) := by
  rcases Nat.lt_or_ge sel.toNat 11 with h | h
  · obtain ⟨hw, he⟩ := encode_property sel h
    rw [decodeProperty_single sel h]
    exact .single hw he
  · rw [decodeProperty_illegal sel h]
    exact .illegal

/-- A word with nothing but an opcode is the encoding of the command with that opcode and no operand. -/
theorem verdict_format_z {c : Word} {op : BitVec 4} {i : Instr} (hop : opField c = op) (hw : i.wellFormed = true)
    (he : encode i = [selectorWord op 0]) :
    VerdictOn c (if c.extractLsb' 0 28 ≠ 0 then .illegal else .single i) := by
  split
  · exact .illegal
  · next hlow =>
    refine .single hw ?_
    rw [he, ← hop, ← eq_selectorWord_zero (not_not.mp hlow)]

/-- The decoder's verdict on a word is true of it (R76). -/
theorem decodeWord_verdict (c : Word) : VerdictOn c (decodeWord c) := by
  rcases opcode_cases (opField c) with h | h | h | h | h | h | h | h
  · rw [decodeWord_op1 h]
    split
    · exact .illegal
    · next hlegal =>
      simp only [ne_eq, not_or, not_not, not_lt] at hlegal
      obtain ⟨hlow, hsel⟩ := hlegal
      refine .load hsel ?_
      rw [BitVec.ofNat_toNat, BitVec.setWidth_eq, ← h]
      exact eq_selectorWord hlow
  · rw [decodeWord_op2 h]
    split
    · exact .illegal
    · next hlegal =>
      simp only [ne_eq, not_or, not_not] at hlegal
      obtain ⟨hsel, hhi, hmid⟩ := hlegal
      refine .single rfl ?_
      rw [encode, ← eq_descriptorWord h hsel hhi hmid]
  · rw [decodeWord_op3 h]
    exact verdict_format_z h rfl rfl
  · rw [decodeWord_op4 h]
    exact verdict_format_z h rfl rfl
  · rw [decodeWord_op5 h]
    split
    · exact .illegal
    · next hlegal =>
      simp only [ne_eq, not_or, not_not, not_lt] at hlegal
      obtain ⟨hlow, hsel⟩ := hlegal
      refine .single (decide_eq_true hsel) ?_
      rw [encode, ← h, ← eq_selectorWord hlow]
  · rw [decodeWord_op6 h]
    split
    · exact .illegal
    · next hlow =>
      have hc : c = selectorWord 0x6 (selField c) := h ▸ eq_selectorWord (not_not.mp hlow)
      have hv := decodeProperty_verdict (selField c)
      rwa [← hc] at hv
  · rw [decodeWord_op7 h]
    exact verdict_format_z h rfl rfl
  · rw [decodeWord_unused h]
    exact .illegal

/-! ### The round trip (R74, R80) -/

/-- The words of a complete command are its own encoding. -/
theorem CommandWords.eq_encode {i : Instr} {cmd : List Word} (h : CommandWords i cmd) :
    i.wellFormed = true ∧ cmd = encode i := by
  cases h with
  | @single c i e =>
    have hv := decodeWord_verdict c
    rw [e] at hv
    cases hv with
    | single hw he => exact ⟨hw, he.symm⟩
  | @load c data e =>
    have hv := decodeWord_verdict c
    rw [e] at hv
    cases hv with
    | load hn hc => exact ⟨decide_eq_true hn, by rw [hc]; rfl⟩

/-- The encoding of a well-formed command is one complete command. -/
theorem commandWords_encode {i : Instr} (h : i.wellFormed = true) : CommandWords i (encode i) := by
  cases i with
  | ldw data => exact .load (decodeWord_load (of_decide_eq_true h))
  | mkp wi bi bl => exact .single (by simp [decodeWord_op2])
  | rdf field =>
    have hf : ¬11 < field.toNat := not_lt.mpr (of_decide_eq_true h)
    exact .single (by rw [decodeWord_op5 (opField_selectorWord ..)]; simp [hf])
  | _ => exact .single (by decide)

/-- Settles O1: a command's encoding is one complete command. -/
theorem decodeOfEncodedCommand : Obligations.DecodeOfEncodedCommand := fun _ _ hw =>
  decode_eq_command_iff.mpr ⟨_, commandWords_encode hw, rfl⟩

/-- Settles O2: the words the decoder reads as a command are its encoding. -/
theorem encodeOfDecodedCommand : Obligations.EncodeOfDecodedCommand := by
  intro ws rest i h
  obtain ⟨cmd, hc, rfl⟩ := decode_eq_command_iff.mp h
  obtain ⟨hw, rfl⟩ := hc.eq_encode
  exact ⟨hw, rfl⟩

end Sys2Proof.Machine
end

section
/-! PROOF. The opcode map (R74) and the illegal words (R77). -/

namespace Sys2Proof.Machine

/-! ### The rows of the opcode map -/

/-- Where the mask of a match is all ones, the word has the pattern's bits (R74). -/
theorem slice_of_and_eq {c mask pattern : Word} {start len : Nat} (h : c &&& mask = pattern)
    (hm : mask.extractLsb' start len = BitVec.allOnes len) :
    c.extractLsb' start len = pattern.extractLsb' start len := by
  rw [← h, BitVec.extractLsb'_and, hm, BitVec.and_allOnes]

theorem descriptorWord_and_mask (wi : BitVec 4) (bi : BitVec 5) (bl : BitVec 8) :
    descriptorWord wi bi bl &&& 0xFFF0E000 = 0x20000000 := by
  change (0x2#4 ++ 0#4 ++ 0#4 ++ wi ++ 0#3 ++ bi ++ bl) &&&
    (0xF#4 ++ 0xF#4 ++ 0xF#4 ++ 0#4 ++ 0x7#3 ++ 0#5 ++ 0#8) = _
  simp only [BitVec.and_append, BitVec.and_zero]
  rfl

theorem OpcodeRow.selects_iff {r : OpcodeRow} {c : Word} :
    r.selects c = true ↔ c &&& r.mask = r.pattern ∧ (selField c).toNat ≤ r.selMax := by
  simp [OpcodeRow.selects]

/-- The selector limit of a row is that of its command's operand: only LDW and RDF have one (R74). -/
theorem le_selMax_iff : ∀ r ∈ opcodeRows, ∀ sel : BitVec 4,
    sel.toNat ≤ r.selMax ↔ (r.mnemonic = "LDW" → sel.toNat ≤ 8) ∧ (r.mnemonic = "RDF" → sel.toNat ≤ 11) := by
  decide

theorem row_eq_of_mnemonic : ∀ r ∈ opcodeRows, ∀ r' ∈ opcodeRows, r.mnemonic = r'.mnemonic → r = r' := by
  decide

/-- The rows other than LDW, MKP and RDF fix the whole word, and it is the row's command. -/
theorem row_cases : ∀ r ∈ opcodeRows,
    r = ⟨"LDW", 0x10000000, 0xF0FFFFFF, 8⟩ ∨ r = ⟨"MKP", 0x20000000, 0xFFF0E000, 15⟩ ∨
      r = ⟨"RDF", 0x50000000, 0xF0FFFFFF, 11⟩ ∨
        r.mask = BitVec.allOnes 32 ∧ (decodeWord r.pattern).mnemonic = some r.mnemonic := by
  decide

/-- A word that a row selects is read as the row's command: the mask fixes the opcode and every unused bit (R74). -/
theorem decodeWord_of_selects {c : Word} {r : OpcodeRow} (hr : r ∈ opcodeRows) (h : r.selects c = true) :
    (decodeWord c).mnemonic = some r.mnemonic := by
  obtain ⟨hmatch, hsel⟩ := OpcodeRow.selects_iff.mp h
  rcases row_cases r hr with rfl | rfl | rfl | ⟨hmask, hdec⟩
  · have hop : opField c = 1 := slice_of_and_eq hmatch rfl
    have hlow : c.extractLsb' 0 24 = 0 := slice_of_and_eq hmatch rfl
    have hmax : (selField c).toNat ≤ 8 := hsel
    rw [decodeWord_op1 hop, if_neg (by simp [hlow, hmax])]
    rfl
  · have hop : opField c = 2 := slice_of_and_eq hmatch rfl
    have hzero : selField c = 0 := slice_of_and_eq hmatch rfl
    have hhi : c.extractLsb' 20 4 = 0 := slice_of_and_eq hmatch rfl
    have hmid : c.extractLsb' 13 3 = 0 := slice_of_and_eq hmatch rfl
    rw [decodeWord_op2 hop, if_neg (by simp [hzero, hhi, hmid])]
    rfl
  · have hop : opField c = 5 := slice_of_and_eq hmatch rfl
    have hlow : c.extractLsb' 0 24 = 0 := slice_of_and_eq hmatch rfl
    have hmax : (selField c).toNat ≤ 11 := hsel
    rw [decodeWord_op5 hop, if_neg (by simp [hlow, hmax])]
    rfl
  · rw [hmask, BitVec.and_allOnes] at hmatch
    rw [hmatch]
    exact hdec

/-- Every legal operand of LDW and of RDF is in the range of its row (R74). -/
theorem ldw_row_selects : ∀ sel : BitVec 4, sel.toNat ≤ 8 →
    ∃ r ∈ opcodeRows, r.mnemonic = "LDW" ∧ r.selects (selectorWord 0x1 sel) = true := by
  decide

theorem rdf_row_selects : ∀ sel : BitVec 4, sel.toNat ≤ 11 →
    ∃ r ∈ opcodeRows, r.mnemonic = "RDF" ∧ r.selects (selectorWord 0x5 sel) = true := by
  decide

/-- A command's word is selected by a row with the command's mnemonic (R74). -/
theorem exists_row_selects {i : Instr} {c : Word} (hw : i.wellFormed = true) (he : encode i = [c]) :
    ∃ r ∈ opcodeRows, r.mnemonic = i.mnemonic ∧ r.selects c = true := by
  cases i with
  | ldw data =>
    obtain ⟨rfl, rfl⟩ := List.cons_eq_cons.mp he
    exact ldw_row_selects 0 (by decide)
  | mkp wi bi bl =>
    obtain ⟨rfl, -⟩ := List.cons_eq_cons.mp he
    exact ⟨⟨"MKP", 0x20000000, 0xFFF0E000, 15⟩, by decide, rfl,
      OpcodeRow.selects_iff.mpr ⟨descriptorWord_and_mask wi bi bl, by simp⟩⟩
  | rdf field =>
    obtain ⟨rfl, -⟩ := List.cons_eq_cons.mp he
    exact rdf_row_selects field (of_decide_eq_true hw)
  | _ =>
    obtain ⟨rfl, -⟩ := List.cons_eq_cons.mp he
    decide

/-- A word that is read as a command is selected by a row with the command's mnemonic (R74). -/
theorem VerdictOn.exists_row {c : Word} {v : Verdict} {m : String} (hv : VerdictOn c v) (hm : v.mnemonic = some m) :
    ∃ r ∈ opcodeRows, r.mnemonic = m ∧ r.selects c = true := by
  cases hv with
  | illegal => cases hm
  | @load n hn hc =>
    cases hm
    rw [hc]
    refine ldw_row_selects _ ?_
    rw [BitVec.toNat_ofNat]
    omega
  | single hw he =>
    cases hm
    exact exists_row_selects hw he

/-- Settles O3: a row's words are read as its command, and every command's word is selected by its row. -/
theorem decoderFollowsOpcodeMap : Obligations.DecoderFollowsOpcodeMap := by
  refine ⟨rfl, fun c r hr => ?_, fun c m => ⟨(decodeWord_verdict c).exists_row, ?_⟩⟩
  · rw [OpcodeRow.selects_iff, le_selMax_iff r hr]
    rfl
  · rintro ⟨r, hr, rfl, hsel⟩
    exact decodeWord_of_selects hr hsel

/-- Settles O4: both rows have the mnemonic that the decoder answers for the word, and no two rows share one. -/
theorem opcodeRowsNeverOverlap : Obligations.OpcodeRowsNeverOverlap := by
  intro c r r' hr hr' h h'
  refine row_eq_of_mnemonic r hr r' hr' (Option.some_injective _ ?_)
  rw [← decodeWord_of_selects hr h, decodeWord_of_selects hr' h']

/-! ### The illegal words -/

theorem decodeProperty_illegal_iff {sel : BitVec 4} : decodeProperty sel = .illegal ↔ 11 ≤ sel.toNat := by
  refine ⟨fun h => ?_, decodeProperty_illegal sel⟩
  by_contra hlt
  rw [decodeProperty_single sel (not_le.mp hlt)] at h
  cases h

/-- The illegal words of each opcode, in the slices of R77. -/
theorem decodeWord_illegal_iff (c : Word) :
    decodeWord c = .illegal ↔
      opField c = 0 ∨ 8 ≤ (opField c).toNat ∨ c.extractLsb' 20 4 ≠ 0 ∨
        (opField c = 2 ∧ c.extractLsb' 13 3 ≠ 0) ∨ (opField c ≠ 2 ∧ c.extractLsb' 0 20 ≠ 0) ∨
        ((opField c = 2 ∨ opField c = 3 ∨ opField c = 4 ∨ opField c = 7) ∧ selField c ≠ 0) ∨
        (opField c = 1 ∧ 9 ≤ (selField c).toNat) ∨ (opField c = 5 ∧ 12 ≤ (selField c).toNat) ∨
        (opField c = 6 ∧ 11 ≤ (selField c).toNat) := by
  rcases opcode_cases (opField c) with h | h | h | h | h | h | h | h
  · simp only [decodeWord_op1 h, h, low24_eq_zero_iff, ne_eq]
    grind
  · simp only [decodeWord_op2 h, h]
    grind
  · simp only [decodeWord_op3 h, h, low28_eq_zero_iff, low24_eq_zero_iff, ne_eq]
    grind
  · simp only [decodeWord_op4 h, h, low28_eq_zero_iff, low24_eq_zero_iff, ne_eq]
    grind
  · simp only [decodeWord_op5 h, h, low24_eq_zero_iff, ne_eq]
    grind
  · simp only [decodeWord_op6 h, h, low24_eq_zero_iff, ne_eq]
    grind [decodeProperty_illegal_iff]
  · simp only [decodeWord_op7 h, h, low28_eq_zero_iff, low24_eq_zero_iff, ne_eq]
    grind
  · simp only [decodeWord_unused h, true_iff]
    tauto

/-- Settles O5: the illegal words of each opcode, and the step that refuses one. -/
theorem illegalWordsExactly : Obligations.IllegalWordsExactly :=
  ⟨decodeWord_illegal_iff, fun _ _ _ hin hc => step_illegal (fetch_eq_illegal_iff.mpr ⟨_, hc, hin⟩)⟩

end Sys2Proof.Machine
end

section
/-! PROOF. An LDW whose words arrive in two parts (R81), the tags of the responses (R84) and their packing (R82), and the
pseudo-instructions (R86). -/

namespace Sys2Proof.Machine

/-- Settles O11: the words that have arrived are no complete command, and with the missing ones they are an LDW's. -/
theorem incompleteLoadWaits : Obligations.IncompleteLoadWaits := by
  intro s n first hn hf hin
  refine ⟨step_incomplete ?_, fun others hlen => ?_⟩
  · rw [hin, List.map_cons, fetch_word, leadingWords_map, decode_load_incomplete hn hf]
    simp
  · have hload : CommandWords (.ldw (first ++ others)) (selectorWord 0x1 (BitVec.ofNat 4 n) :: (first ++ others)) :=
      .load (by rw [decodeWord_load hn, List.length_append, hlen])
    exact step_command (fetch_eq_command_iff.mpr ⟨_, hload, by simp [State.deliver, hin]⟩)

/-! ### The tags of the responses -/

/-- A field register of one bit holds 0 or 1 in a legal header (R31). -/
theorem flag_field_bit {s : State} (hl : s.HeaderLegal) (hv : s.hv = true) (k : Fin 12)
    (hk : headerTable[k].bl = 1) : s.f[k] = 0 ∨ s.f[k] = 1 := by
  obtain ⟨-, hwidth⟩ := hl hv
  have hlt : s.f[k].toNat < 2 ^ (1 : BitVec 8).toNat := hk ▸ hwidth k
  change s.f[k].toNat < 2 at hlt
  have hbit : s.f[k].toNat = 0 ∨ s.f[k].toNat = 1 := by omega
  exact hbit.imp BitVec.eq_of_toNat_eq BitVec.eq_of_toNat_eq

theorem zext64_bit {w : Word} (h : w = 0 ∨ w = 1) : zext64 w = 0 ∨ zext64 w = 1 := by
  rcases h with rfl | rfl <;> decide

theorem one_sub_zext64_bit {w : Word} (h : w = 0 ∨ w = 1) : 1 - zext64 w = 0 ∨ 1 - zext64 w = 1 := by
  rcases h with rfl | rfl <;> decide

/-- Settles O48: by the effect of the command. -/
theorem responseTagsByCommand : Obligations.ResponseTagsByCommand := by
  intro i s t h
  cases exec_effect h with
  | load | parser | header => exact ⟨_, rfl, fun _ => rfl, fun _ => rfl, fun _ => rfl, nofun, nofun, nofun⟩
  | raised who x =>
    exact ⟨_, State.raise_responses who x s, fun _ => rfl, fun _ => rfl, fun _ => rfl, nofun, nofun, nofun⟩
  | answer tag v hhdr hldw hmkp hnone hsint hstr hbool =>
    refine ⟨_, rfl, fun hn => absurd hn hnone, fun hok => absurd rfl hok, ?_, hsint, hstr, fun hb => ?_⟩
    · rintro (⟨data, hi⟩ | ⟨wi, bi, bl, hi⟩ | hi)
      · exact absurd hi (hldw data)
      · exact absurd hi (hmkp wi bi bl)
      · exact absurd hi hhdr
    · obtain ⟨hv, hval⟩ := hbool hb
      refine ⟨hval.imp And.left (Or.imp And.left And.left), fun hl => ?_⟩
      rcases hval with ⟨-, rfl⟩ | ⟨-, rfl⟩ | ⟨-, rfl⟩
      · exact zext64_bit (flag_field_bit hl hv 1 rfl)
      · exact zext64_bit (flag_field_bit hl hv 11 rfl)
      · exact one_sub_zext64_bit (flag_field_bit hl hv 2 rfl)

/-! ### The packing of a response -/

theorem tag_code_injective {a b : Tag} : a.code = b.code → a = b := by
  cases a <;> cases b <;> decide

theorem status_code_injective {a b : Status} : a.code = b.code → a = b := by
  cases a <;> cases b <;> decide

theorem pack_value (r : Response) : r.pack.extractLsb' 0 64 = r.value := BitVec.extractLsb'_append_eq_right

theorem pack_tag (r : Response) : r.pack.extractLsb' 64 4 = r.tag.code := by
  rw [Response.pack, BitVec.extractLsb'_append_eq_of_le (by decide)]
  exact BitVec.extractLsb'_append_eq_right

theorem pack_status (r : Response) : r.pack.extractLsb' 68 4 = r.status.code := by
  rw [Response.pack, BitVec.extractLsb'_append_eq_of_le (by decide)]
  exact BitVec.extractLsb'_append_eq_left

/-- Equal packings have equal slices, and the codes tell the statuses and the tags apart (R82 to R84). -/
theorem pack_injective {r r' : Response} (h : r.pack = r'.pack) : r = r' := by
  have hv : r.value = r'.value := by rw [← pack_value, h, pack_value]
  have ht : r.tag = r'.tag := tag_code_injective (by rw [← pack_tag, h, pack_tag])
  have hs : r.status = r'.status := status_code_injective (by rw [← pack_status, h, pack_status])
  cases r
  cases r'
  rw [Response.mk.injEq]
  exact ⟨hs, ht, hv⟩

/-- Settles O44: the three slices of a packing, which determine the response. -/
theorem responsePacking : Obligations.ResponsePacking :=
  ⟨fun r => ⟨pack_value r, pack_tag r, pack_status r⟩, rfl, rfl, fun _ _ => pack_injective⟩

/-! ### Worked encodings and pseudo-instructions -/

/-- Settles O6: the table of R87, computed. -/
theorem workedEncodings : Obligations.WorkedEncodings := by
  unfold Obligations.WorkedEncodings
  decide

theorem fieldIndex_fieldNames : ∀ row ∈ fieldNames, fieldIndex row.1.toList = some row.2 := by
  decide

/-- EXT after an MKP of bad geometry: the MKP has cleared `PV` (R86, R210). -/
theorem badMkp_ext {wi : BitVec 4} {bi : BitVec 5} {bl : BitVec 8} {s : State} (h : geomOK bi bl = false) :
    execMkp wi bi bl s = .next (s.raise .mkp .geometry) ∧
      execExt (s.raise .mkp .geometry) = .next ((s.raise .mkp .geometry).raise .other .noParser) := by
  constructor
  · rw [execMkp, h]
    rfl
  · have hpv : (s.raise .mkp .geometry).pv = false := by simp
    rw [execExt, hpv]
    rfl

/-- Settles O8: the expansions are the definition's; a bad MKP leaves no parser to its EXT. -/
theorem pseudoInstructionsExpand : Obligations.PseudoInstructionsExpand := by
  refine ⟨fun _ _ _ => rfl, fun _ => rfl, fun _ => rfl, fun _ => rfl, fun _ => rfl, fun row hrow => ?_,
    fun wi bi bl s hg => ?_⟩
  · rw [Pseudo.expand, fieldIndex_fieldNames row hrow]
    rfl
  · obtain ⟨hmkp, hext⟩ := badMkp_ext (wi := wi) (s := s) hg
    exact ⟨_, _, hmkp, hext, by simp [Exc.status]⟩

end Sys2Proof.Machine
end

section
/-! PROOF. The 32-bit shifter and mask unit as arithmetic on numbers (R101 to R105). -/

namespace Sys2Proof.Machine

/-! ### The shifter and the mask -/

theorem shr32_toNat (w : Word) (s : BitVec 5) : (shr32 w s).toNat = w.toNat / 2 ^ s.toNat := by
  rw [shr32, BitVec.toNat_ushiftRight, Nat.shiftRight_eq_div_pow]

theorem shr32_getLsbD (w : Word) (s : BitVec 5) (b : Nat) : (shr32 w s).getLsbD b = w.getLsbD (b + s.toNat) := by
  rw [shr32, BitVec.getLsbD_ushiftRight, Nat.add_comm]

theorem mask_toNat {n : Nat} (hn : n ≤ 32) : (mask n).toNat = 2 ^ n - 1 := by
  have hp : 2 ^ n ≤ 2 ^ 32 := Nat.pow_le_pow_right (by decide) hn
  rw [mask, BitVec.toNat_ofNat, Nat.mod_eq_of_lt (by omega)]

/-- Settles O16: a shifted word as a number and bit by bit, where a bit from 32 up is zero; and the mask as a number. -/
theorem shifterAndMaskMeaning : Obligations.ShifterAndMaskMeaning := by
  refine ⟨fun w s => ⟨shr32_toNat w s, fun b _ => shr32_getLsbD w s b, fun b hb => ?_⟩, fun _ => mask_toNat⟩
  rw [shr32_getLsbD]
  exact BitVec.getLsbD_of_ge w _ (by omega)

/-! ### Fields -/

/-- A mask of `n` ones keeps the remainder modulo `2^n` of the shifted word (R103). -/
theorem field32_toNat (w : Word) (s : BitVec 5) {n : Nat} (hn : n ≤ 32) :
    (field32 w s n).toNat = w.toNat / 2 ^ s.toNat % 2 ^ n := by
  rw [field32, BitVec.toNat_and, mask_toNat hn, Nat.and_two_pow_sub_one_eq_mod, shr32_toNat]

/-- Settles O17: the field as a remainder of the quotient, which is the quotient of a remainder. -/
theorem fieldIsQuotientAndRemainder : Obligations.FieldIsQuotientAndRemainder := by
  intro w s n h
  have hn : n ≤ 32 := by omega
  refine ⟨rfl, field32_toNat w s hn, ?_, Nat.le_sub_one_of_lt (field32_lt w s hn)⟩
  rw [field32_toNat w s hn, Nat.pow_add, Nat.mod_mul_right_div_self]

/-- A field shifted back to its place extends the word's bits below it by its own (R105 c). -/
theorem field32_mul_add_mod (w : Word) {start n : Nat} (hs : start < 32) (hn : n ≤ 32) :
    (field32 w (BitVec.ofNat 5 start) n).toNat * 2 ^ start + w.toNat % 2 ^ start = w.toNat % 2 ^ (start + n) := by
  have e : (BitVec.ofNat 5 start).toNat = start := by
    rw [BitVec.toNat_ofNat, Nat.mod_eq_of_lt hs]
  rw [field32_toNat w _ hn, e, Nat.pow_add, Nat.mod_mul, Nat.mul_comm, Nat.add_comm]

/-- Fields packed from bit `start` up, with the bits below `start`, are the word's bits below the end of the last field.
Lengths are positive, so every field starts inside the word. -/
theorem reassemble_add_mod (w : Word) (ns : List Nat) : ∀ start : Nat, (∀ n ∈ ns, 0 < n) → start + ns.sum ≤ 32 →
    reassemble w start ns + w.toNat % 2 ^ start = w.toNat % 2 ^ (start + ns.sum) := by
  induction ns with
  | nil => simp [reassemble]
  | cons n ns ih =>
    intro start hpos hsum
    rw [List.sum_cons, ← Nat.add_assoc] at hsum ⊢
    have hn : 0 < n := hpos n List.mem_cons_self
    have hfield := field32_mul_add_mod w (start := start) (n := n) (by omega) (by omega)
    rw [← ih (start + n) (fun m hm => hpos m (List.mem_cons_of_mem n hm)) hsum, ← hfield, reassemble]
    omega

/-- Settles O19: from bit 0 to the end of the last field, bit 32, is the whole word. -/
theorem fieldsReassembleTheWord : Obligations.FieldsReassembleTheWord := by
  intro w ns hpos hsum
  have h := reassemble_add_mod w ns 0 hpos (by omega)
  rwa [Nat.pow_zero, Nat.mod_one, Nat.add_zero, Nat.zero_add, hsum, Nat.mod_eq_of_lt w.isLt] at h

/-! ### The cross-word path -/

theorem cat64_toNat (lo hi : Word) : (cat64 lo hi).toNat = lo.toNat + hi.toNat * 2 ^ 32 := by
  rw [cat64, BitVec.toNat_append, shiftLeft_or_eq_add _ _ _ lo.isLt, Nat.add_comm]

theorem cat64_eq_or (lo hi : Word) : cat64 lo hi = (hi.setWidth 64 <<< 32) ||| lo.setWidth 64 := by
  rw [cat64, BitVec.append_def, BitVec.shiftLeftZeroExtend_eq, BitVec.setWidth'_eq]

/-- Below bit 32 the shifted high word is zero, and from there up the low word is. -/
theorem shifted_hi_and_lo (lo hi : Word) : hi.setWidth 64 <<< 32 &&& lo.setWidth 64 = 0#64 := by
  apply BitVec.eq_of_getLsbD_eq
  intro i _
  rcases Nat.lt_or_ge i 32 with hlow | hhigh
  · simp [hlow]
  · simp [hhigh]

/-- The two words have no bit in common, so adding them carries nothing (R104). -/
theorem cat64_eq_add (lo hi : Word) : cat64 lo hi = (hi.setWidth 64 <<< 32) + lo.setWidth 64 := by
  rw [cat64_eq_or, BitVec.add_eq_or_of_and_eq_zero _ _ (shifted_hi_and_lo lo hi)]

/-- Settles O18: the concatenation as a number, as a sum and as an OR. -/
theorem concatenationIsExact : Obligations.ConcatenationIsExact := fun lo hi =>
  ⟨cat64_toNat lo hi, cat64_eq_add lo hi, cat64_eq_or lo hi⟩

end Sys2Proof.Machine
end

section
/-! PROOF. Loading the word sequence (R110): LDW's command word and effect, and the words of its opcode that are no LDW. -/

namespace Sys2Proof.Machine

/-- LDW's words: the command word with its count as a number, and the data (R74, R80). -/
theorem encode_ldw {data : List Word} (h : data.length ≤ 8) :
    encode (.ldw data) = BitVec.ofNat 32 (0x10000000 + data.length * 2 ^ 24) :: data := by
  have hword : selectorWord 0x1 (BitVec.ofNat 4 data.length) = BitVec.ofNat 32 (0x10000000 + data.length * 2 ^ 24) := by
    apply BitVec.eq_of_toNat_eq
    have hop : (0x1 : BitVec 4).toNat = 1 := rfl
    rw [selectorWord_toNat, hop, BitVec.toNat_ofNat, BitVec.toNat_ofNat]
    omega
  rw [encode, hword]

/-- A count of at most 8 words fits `NW` (R22, R110). -/
theorem loadSequence_nw_toNat {data : List Word} (s : State) (h : data.length ≤ 8) :
    (s.loadSequence data).nw.toNat = data.length := by
  rw [State.loadSequence_nw, BitVec.toNat_ofNat]
  omega

theorem exec_ldw {data : List Word} (s : State) (h : data.length ≤ 8) :
    exec (.ldw data) s = .next (s.loadSequence data).respondNone :=
  if_pos h

/-- A word of opcode 1 with a count over 8 or a reserved bit is no command (R76, R77). -/
theorem decodeWord_ldw_illegal {c : Word} (hop : opField c = 1)
    (h : 8 < (selField c).toNat ∨ c.extractLsb' 0 24 ≠ 0) : decodeWord c = .illegal := by
  rw [decodeWord_op1 hop, if_pos h.symm]

/-- Settles O22: LDW's writes are `loadSequence`, which names no other register; an illegal word raises and is consumed
alone. -/
theorem loadWordsMeaning : Obligations.LoadWordsMeaning := by
  refine ⟨fun data s hl => ⟨encode_ldw hl, _, exec_ldw s hl, loadSequence_nw_toNat s hl,
    fun _ h h8 => loadSequence_w_get data s h h8, ⟨rfl, rfl⟩, ⟨rfl, rfl, rfl⟩, ⟨rfl, rfl, rfl, rfl, rfl⟩, rfl, rfl⟩,
    fun s c rest hin hop hbad => ?_⟩
  exact step_illegal (fetch_eq_illegal_iff.mpr ⟨c, decodeWord_ldw_illegal hop hbad, hin⟩)

end Sys2Proof.Machine
end

section
/-! PROOF. The geometry check (R121) and the header field table (R143, R144). -/

namespace Sys2Proof.Machine

/-- The geometry rule on numbers: a 64-bit field starts at bit 0, any other ends within its word (R121). -/
theorem geomOK_iff {bi : BitVec 5} {bl : BitVec 8} : geomOK bi bl = true ↔
    (bl.toNat = 64 ∧ bi.toNat = 0) ∨ (bl.toNat ≠ 64 ∧ 0 < bi.toNat + bl.toNat ∧ bi.toNat + bl.toNat ≤ 32) := by
  have hbl : bl = 64 ↔ bl.toNat = 64 := BitVec.toNat_inj.symm
  have hbi : bi = 0 ↔ bi.toNat = 0 := BitVec.toNat_inj.symm
  rw [geomOK]
  split
  · next h =>
    have h64 := hbl.mp h
    rw [decide_eq_true_eq, hbi]
    omega
  · next h =>
    have hne := mt hbl.mpr h
    rw [Bool.and_eq_true, decide_eq_true_eq, decide_eq_true_eq]
    omega

/-- A field of good geometry that is not the 64-bit one is at most a word long (R121). -/
theorem length_le_of_geomOK {bi : BitVec 5} {bl : BitVec 8} (h : geomOK bi bl = true) (hl : bl ≠ 64) :
    bl.toNat ≤ 32 := by
  have hne : bl.toNat ≠ 64 := fun e => hl (BitVec.eq_of_toNat_eq e)
  have hrule := geomOK_iff.mp h
  omega

/-- A field of length 0 is refused at bit 0 only (R125). -/
theorem geomOK_zero_length {bi : BitVec 5} : geomOK bi 0 = true ↔ bi ≠ 0 := by
  have hbi : bi ≠ 0 ↔ bi.toNat ≠ 0 := not_congr BitVec.toNat_inj.symm
  have hlen : (0 : BitVec 8).toNat = 0 := rfl
  rw [geomOK_iff, hlen, hbi]
  omega

/-- At every bit index 33 - bi lengths pass: at 0 the lengths 1 to 32 and 64, at any other those from 0 to the end of the
word. -/
theorem passing_lengths_count {bi : Nat} (hbi : bi < 32) :
    ((List.range 256).filter fun bl => geomOK (BitVec.ofNat 5 bi) (BitVec.ofNat 8 bl)).length = 33 - bi := by
  rcases Nat.eq_zero_or_pos bi with rfl | hpos
  · decide
  · have hpass : ∀ bl ∈ List.range 256,
        geomOK (BitVec.ofNat 5 bi) (BitVec.ofNat 8 bl) = decide (bl < 33 - bi) := by
      intro bl hbl
      rw [Bool.eq_iff_iff, geomOK_iff, BitVec.toNat_ofNat, BitVec.toNat_ofNat, Nat.mod_eq_of_lt hbi,
        Nat.mod_eq_of_lt (List.mem_range.mp hbl), decide_eq_true_eq]
      omega
    rw [List.filter_congr hpass, ← List.Ico.zero_bot, List.Ico.filter_lt_of_ge (by omega), List.Ico.length,
      Nat.sub_zero]

/-- Settles O21: the rule on numbers, and the sum of 33 - bi over the bit indices. -/
theorem geometryRule : Obligations.GeometryRule := by
  refine ⟨fun _ _ => geomOK_iff, ?_⟩
  rw [List.map_congr_left fun bi hbi => passing_lengths_count (List.mem_range.mp hbi)]
  decide

/-! ### The table -/

/-- Every entry of the table passes the geometry check with a length of 1 to 30 (R144). -/
theorem headerTable_geomOK : ∀ k : Fin 12, geomOK headerTable[k].bi headerTable[k].bl = true ∧
    1 ≤ headerTable[k].bl.toNat ∧ headerTable[k].bl.toNat ≤ 30 := by
  decide

/-- The table names words 0 to 3 only (R143). -/
theorem headerTable_wi_lt : ∀ k : Fin 12, headerTable[k].wi.toNat < 4 := by
  decide

/-- Two entries that share a word have disjoint bit ranges (R144). -/
theorem headerTable_disjoint : ∀ k m : Fin 12, k ≠ m → headerTable[k].wi = headerTable[m].wi →
    headerTable[k].bi.toNat + headerTable[k].bl.toNat ≤ headerTable[m].bi.toNat ∨
      headerTable[m].bi.toNat + headerTable[m].bl.toNat ≤ headerTable[k].bi.toNat := by
  decide

/-- Settles O28: the twelve entries, looked up. -/
theorem tableEntriesAreSound : Obligations.TableEntriesAreSound :=
  ⟨headerTable_geomOK, by decide, headerTable_disjoint⟩

end Sys2Proof.Machine
end

section
/-! PROOF. The extractor: the values of a field (R124), MKP (R122) and EXT (R123). -/

namespace Sys2Proof.Machine

/-! ### The value of a field (R124) -/

/-- A field of at most 32 bits as a quotient's remainder (R124). -/
theorem zext64_field32_eq_ofNat (w : Word) (bi : BitVec 5) {n : Nat} (hn : n ≤ 32) :
    zext64 (field32 w bi n) = BitVec.ofNat 64 (w.toNat / 2 ^ bi.toNat % 2 ^ n) := by
  rw [zext64_eq_ofNat, field32_toNat w bi hn]

/-- The 64-bit mask of the document's formula, as a number (R124). -/
theorem one_shiftLeft_sub_one_toNat {n : Nat} (hn : n ≤ 32) : (((1 : BitVec 64) <<< n) - 1).toNat = 2 ^ n - 1 := by
  have hp : 2 ^ n ≤ 2 ^ 32 := Nat.pow_le_pow_right (by decide) hn
  have hshift : ((1 : BitVec 64) <<< n).toNat = 2 ^ n :=
    (BitVec.toNat_twoPow 64 n).trans (Nat.mod_eq_of_lt (by omega))
  have hone : (1 : BitVec 64) ≤ (1 : BitVec 64) <<< n := by
    rw [BitVec.le_def, hshift]
    exact Nat.two_pow_pos n
  rw [BitVec.toNat_sub_of_le hone, hshift]
  rfl

/-- A field of at most 32 bits by the document's formula at 64 bits: shift, then mask (R124). -/
theorem zext64_field32_eq_shift_mask (w : Word) (bi : BitVec 5) {n : Nat} (hn : n ≤ 32) :
    zext64 (field32 w bi n) = (w.setWidth 64 >>> bi.toNat) &&& (((1 : BitVec 64) <<< n) - 1) := by
  apply BitVec.eq_of_toNat_eq
  have hw : (w.setWidth 64).toNat = w.toNat := BitVec.toNat_setWidth_of_le (by decide)
  have hz : (zext64 (field32 w bi n)).toNat = (field32 w bi n).toNat := BitVec.toNat_setWidth_of_le (by decide)
  rw [hz, field32_toNat w bi hn, BitVec.toNat_and, BitVec.toNat_ushiftRight, hw, one_shiftLeft_sub_one_toNat hn,
    Nat.and_two_pow_sub_one_eq_mod, Nat.shiftRight_eq_div_pow]

/-- A field of length 0 is 0 (R125). -/
theorem zext64_field32_zero_length (w : Word) (bi : BitVec 5) : zext64 (field32 w bi 0) = 0 := by
  rw [zext64_field32_eq_ofNat w bi (Nat.zero_le 32), Nat.pow_zero, Nat.mod_one]
  rfl

theorem cat64_eq_ofNat (lo hi : Word) : cat64 lo hi = BitVec.ofNat 64 (lo.toNat + hi.toNat * 2 ^ 32) := by
  rw [← cat64_toNat, BitVec.ofNat_toNat, BitVec.setWidth_eq]

/-- A word that the descriptor names is absent from the sequence (R124). -/
theorem extract_absent {s : State} {d : Descriptor}
    (h : s.nw.toNat ≤ d.wi.toNat ∨ (d.bl = 64 ∧ s.nw.toNat ≤ d.wi.toNat + 1)) : s.extract d = .error .bounds :=
  extract_bounds s (h.imp_right fun ⟨hl, hn⟩ => .inr ⟨hl, .inl hn⟩)

/-- Settles O24: a one-word field in the two forms of the formula, the 64-bit field, and the absent words. -/
theorem extractMeaning : Obligations.ExtractMeaning := by
  intro s d _ hg
  refine ⟨fun h hl hn => ?_, fun h hl hn => ?_, extract_absent⟩
  · have hlen := length_le_of_geomOK hg hl
    rw [extract_one s hl hn h]
    exact ⟨congrArg _ (zext64_field32_eq_ofNat _ _ hlen), congrArg _ (zext64_field32_eq_shift_mask _ _ hlen)⟩
  · rw [extract_two s hl hn h, cat64_eq_ofNat]

/-! ### The commands -/

theorem exec_mkp_good {bi : BitVec 5} {bl : BitVec 8} (wi : BitVec 4) (s : State) (h : geomOK bi bl = true) :
    exec (.mkp wi bi bl) s = .next (s.setParser ⟨wi, bi, bl⟩).respondNone :=
  if_pos h

theorem exec_mkp_bad {bi : BitVec 5} {bl : BitVec 8} (wi : BitVec 4) (s : State) (h : geomOK bi bl = false) :
    exec (.mkp wi bi bl) s = .next (s.raise .mkp .geometry) :=
  if_neg (by simp [h])

theorem exec_ext_noParser {s : State} (h : s.pv = false) : exec .ext s = .next (s.raise .other .noParser) :=
  if_neg (by simp [h])

theorem exec_ext_ok {s : State} {v : Value} (h : s.pv = true) (hx : s.extract s.p = .ok v) :
    exec .ext s = .next (s.respond .uint v) := by
  rw [exec, execExt, if_pos h, hx]

theorem exec_ext_bounds {s : State} (h : s.pv = true) (hx : s.extract s.p = .error .bounds) :
    exec .ext s = .next (s.raise .other .bounds) := by
  rw [exec, execExt, if_pos h, hx]
  rfl

/-- MKP's command word as a number (R71, R74). -/
theorem encode_mkp (wi : BitVec 4) (bi : BitVec 5) (bl : BitVec 8) : encode (.mkp wi bi bl) =
    [BitVec.ofNat 32 (0x20000000 + wi.toNat * 2 ^ 16 + bi.toNat * 2 ^ 8 + bl.toNat)] := by
  have hword : descriptorWord wi bi bl =
      BitVec.ofNat 32 (0x20000000 + wi.toNat * 2 ^ 16 + bi.toNat * 2 ^ 8 + bl.toNat) := by
    apply BitVec.eq_of_toNat_eq
    rw [descriptorWord_toNat, BitVec.toNat_ofNat]
    omega
  rw [encode, hword]

/-- Settles O23: the two outcomes of the geometry check. -/
theorem makeParserMeaning : Obligations.MakeParserMeaning := fun wi bi bl s =>
  ⟨encode_mkp wi bi bl, exec_mkp_good wi s, exec_mkp_bad wi s⟩

/-- Settles O25: no parser, an absent word, a one-word field and the 64-bit field. -/
theorem extMeaning : Obligations.ExtMeaning := by
  refine ⟨rfl, fun s _ => ⟨exec_ext_noParser, fun hpv habs => exec_ext_bounds hpv (extract_absent habs),
    fun h hpv hpar hl hn => exec_ext_ok hpv ?_, fun h hpv hl hn => exec_ext_ok hpv ?_⟩⟩
  · rw [extract_one s hl hn h, zext64_field32_eq_ofNat _ _ (length_le_of_geomOK (hpar hpv) hl)]
  · rw [extract_two s hl hn h, cat64_eq_ofNat]

end Sys2Proof.Machine
end

section
/-! PROOF. MKP and the EXT after it (R125, R128), and the round trip through the decoded header (R148). -/

namespace Sys2Proof.Machine

/-- MKP leaves the words as they are, and so what any descriptor extracts (R122, R124). -/
theorem extract_setParser_respondNone (d e : Descriptor) (s : State) :
    (s.setParser d).respondNone.extract e = s.extract e := rfl

/-- The EXT after an MKP extracts the MKP's descriptor from the words as they were (R128). -/
theorem exec_ext_after_mkp {s : State} {d : Descriptor} {v : Value} (hx : s.extract d = .ok v) :
    exec .ext (s.setParser d).respondNone = .next ((s.setParser d).respondNone.respond .uint v) :=
  exec_ext_ok rfl (by rw [extract_setParser_respondNone, State.respondNone_p, State.setParser_p, hx])

/-- Two answers one after the other stand in this order behind the earlier responses (R66). -/
theorem respond_after_respondNone (tag : Tag) (v : Value) (s : State) : s.respondNone.respond tag v =
    { s.respondNone with responses := s.responses ++ [⟨.ok, .none, 0⟩, ⟨.ok, tag, v⟩] } := by
  simp [State.respondNone, State.respond, State.emit]

/-- Settles O26: MKP by the geometry of length 0, and EXT by the presence of the word, of which no bit is kept. -/
theorem zeroLengthFields : Obligations.ZeroLengthFields := by
  refine ⟨by decide, fun _ => geomOK_zero_length, fun s wi bi hlen => ⟨fun hbi => ?_, fun hbi => ?_⟩⟩
  · subst hbi
    exact exec_mkp_bad wi s rfl
  · refine ⟨_, exec_mkp_good wi s (geomOK_zero_length.mpr hbi), rfl, fun hn => ?_, fun hn => ?_⟩
    · have hl : (0 : BitVec 8) ≠ 64 := by decide
      have hx : s.extract ⟨wi, bi, 0⟩ = .ok 0 :=
        (extract_one s hl hn (Nat.lt_of_lt_of_le hn hlen)).trans (congrArg _ (zext64_field32_zero_length _ bi))
      exact exec_ext_after_mkp hx
    · exact exec_ext_bounds rfl (extract_absent (.inl hn))

/-- Settles O27: MKP leaves the words and `NW`, from which its EXT takes the field. -/
theorem mkpThenExtExtracts : Obligations.MkpThenExtExtracts := by
  intro s wi bi bl _ hg
  refine ⟨fun h hl hn => ⟨_, exec_mkp_good wi s hg, ?_⟩, fun h hl hn => ⟨_, exec_mkp_good wi s hg, ?_⟩⟩
  · rw [exec_ext_after_mkp (extract_one s hl hn h), respond_after_respondNone]
    rfl
  · rw [exec_ext_after_mkp (extract_two s hl hn h), respond_after_respondNone, cat64_eq_ofNat]
    rfl

/-! ### The round trip through the header (R148) -/

/-- HDR on four words or more latches the fields of the table (R141). -/
theorem exec_hdr_latches {s : State} (hn : 4 ≤ s.nw.toNat) :
    ∃ ts, s.extractAll headerTable.toList = .ok ts ∧ exec .hdr s = .next (s.latchHeader ts).respondNone := by
  rcases execHdr_cases s with ⟨-, h⟩ | ⟨hlt, -⟩
  · exact h
  · omega

/-- Field register `k` is latched with the field that entry `k` of the table describes (R141). -/
theorem latchHeader_table_get {s : State} {ts : List Word} (hn : 4 ≤ s.nw.toNat)
    (hts : s.extractAll headerTable.toList = .ok ts) (k : Fin 12) (h : headerTable[k].wi.toNat < 8) :
    (s.latchHeader ts).f[k] = field32 s.w[headerTable[k].wi.toNat] headerTable[k].bi headerTable[k].bl.toNat := by
  rw [latchHeader_table_f s ts hn hts]
  fin_cases k <;> rfl

/-- RDF reads the field register it names (R142). -/
theorem exec_rdf_header {s : State} {field : BitVec 4} (hv : s.hv = true) (h : field.toNat < 12) :
    exec (.rdf field) s = .next (s.respond .uint (zext64 s.f[field.toNat])) := by
  rw [exec, execRdf, dif_pos h, headerQuery_header _ _ _ hv]

/-- RDF of the number of a field register answers with that register (R142). -/
theorem exec_rdf_ofNat {s : State} (hv : s.hv = true) (k : Fin 12) :
    exec (.rdf (BitVec.ofNat 4 k.val)) s = .next (s.respond .uint (zext64 s.f[k])) := by
  have hk : (BitVec.ofNat 4 k.val).toNat = k.val := by
    rw [BitVec.toNat_ofNat]
    omega
  rw [exec_rdf_header hv (by omega)]
  simp only [hk, Fin.getElem_fin]

/-- The entries of the table are one-word descriptors of words that HDR has found present (R143, R144). -/
theorem extract_table_entry {s : State} (hn : 4 ≤ s.nw.toNat) (k : Fin 12) (h : headerTable[k].wi.toNat < 8) :
    s.extract headerTable[k] =
      .ok (zext64 (field32 s.w[headerTable[k].wi.toNat] headerTable[k].bi headerTable[k].bl.toNat)) := by
  obtain ⟨-, -, hlen⟩ := headerTable_geomOK k
  have hwi := headerTable_wi_lt k
  have hl : headerTable[k].bl ≠ 64 := fun e => absurd (e ▸ hlen) (by decide)
  exact extract_one s hl (by omega) h

/-- Settles O31: HDR latches for entry `k` the field that EXT extracts through it. -/
theorem headerRoundTrip : Obligations.HeaderRoundTrip := by
  intro s k _ hn h
  obtain ⟨ts, hts, hhdr⟩ := exec_hdr_latches hn
  obtain ⟨hg, -, -⟩ := headerTable_geomOK k
  refine ⟨_, _, hhdr, exec_mkp_good _ s hg, ?_, exec_ext_after_mkp (extract_table_entry hn k h)⟩
  rw [exec_rdf_ofNat rfl k, State.respondNone_f, latchHeader_table_get hn hts k h]
  rfl

end Sys2Proof.Machine
end

section
/-! PROOF. The header decoder: HDR (R141) latches slices of words 0 to 3 (R143), RDF (R142) reads a field register. -/

namespace Sys2Proof.Machine

/-! ### HDR -/

/-- A field is a slice of its word, zero-extended (R103). -/
theorem field32_eq_slice (w : Word) (s : BitVec 5) {n : Nat} (hn : n ≤ 32) :
    field32 w s n = (w.extractLsb' s.toNat n).setWidth 32 := by
  apply BitVec.eq_of_toNat_eq
  rw [field32_toNat w s hn, BitVec.toNat_setWidth_of_le hn, BitVec.extractLsb'_toNat, Nat.shiftRight_eq_div_pow]

/-- HDR on fewer than four words raises `Bounds` (R141, R145). -/
theorem exec_hdr_bounds {s : State} (h : s.nw.toNat < 4) : exec .hdr s = .next (s.raise .hdr .bounds) := by
  rcases execHdr_cases s with ⟨hn, -⟩ | ⟨-, hraise⟩
  · omega
  · exact hraise

/-- Settles O29: the fields that HDR extracts are the slices of the table, and with a word missing it raises. -/
theorem hdrMeaning : Obligations.HdrMeaning := by
  refine ⟨rfl, fun s => ⟨fun hn => ?_, exec_hdr_bounds⟩⟩
  rw [exec, execHdr, extractAll_table s hn]
  simp (disch := decide) only [field32_eq_slice]
  rfl

/-- Settles O32: the table's lengths reassemble words 0, 2 and 3 up to bit 32 and word 1 up to bit 30. -/
theorem headerFieldsHoldTheWords : Obligations.HeaderFieldsHoldTheWords := by
  intro s hn
  obtain ⟨ts, hts, hhdr⟩ := exec_hdr_latches hn
  have hword0 := fieldsReassembleTheWord s.w[0] [30, 1, 1] (by decide) rfl
  have hword1 := reassemble_add_mod s.w[1] [24, 6] 0 (by decide) (by decide)
  have hword2 := fieldsReassembleTheWord s.w[2] [24, 5, 3] (by decide) rfl
  have hword3 := fieldsReassembleTheWord s.w[3] [16, 10, 5, 1] (by decide) rfl
  refine ⟨_, hhdr, ?_⟩
  rw [State.respondNone_f, latchHeader_table_f s ts hn hts]
  simp only [reassemble] at hword0 hword1 hword2 hword3
  refine ⟨?_, ?_, ?_, ?_⟩
  · simpa [Nat.add_assoc] using hword0
  · simpa [Nat.mod_one] using hword1
  · simpa [Nat.add_assoc] using hword2
  · simpa [Nat.add_assoc] using hword3

/-! ### RDF -/

/-- RDF's command word, its selector given as a number (R72, R74). -/
theorem selectorWord_rdf {n : Nat} (hn : n ≤ 15) :
    selectorWord 0x5 (BitVec.ofNat 4 n) = BitVec.ofNat 32 (0x50000000 + n * 2 ^ 24) := by
  have hop : (0x5 : BitVec 4).toNat = 5 := rfl
  apply BitVec.eq_of_toNat_eq
  rw [selectorWord_toNat, hop, BitVec.toNat_ofNat, BitVec.toNat_ofNat]
  omega

theorem encode_rdf (field : BitVec 4) :
    encode (.rdf field) = [BitVec.ofNat 32 (0x50000000 + field.toNat * 2 ^ 24)] := by
  rw [encode, ← selectorWord_rdf (Nat.le_of_lt_succ field.isLt), BitVec.ofNat_toNat, BitVec.setWidth_eq]

/-- RDF without a header raises `NoHeader` (R142). -/
theorem exec_rdf_noHeader {s : State} {field : BitVec 4} (hv : s.hv = false) (h : field.toNat < 12) :
    exec (.rdf field) s = .next (s.raise .other .noHeader) := by
  rw [exec, execRdf, dif_pos h, headerQuery_noHeader _ _ _ hv]

/-- RDF's word with a field number of 12 or more is no command (R77, R142). -/
theorem decodeWord_rdf_illegal {field : BitVec 4} (h : 12 ≤ field.toNat) :
    decodeWord (selectorWord 0x5 field) = .illegal := by
  rw [decodeWord_op5 (opField_selectorWord ..), selField_selectorWord]
  exact if_pos (.inr h)

/-- Settles O30: RDF with a header and without, and the field numbers that name no register. -/
theorem rdfMeaning : Obligations.RdfMeaning := by
  refine ⟨fun field s h => ⟨encode_rdf field, fun hv => ?_, fun hv => exec_rdf_noHeader hv h⟩, fun n hlo hhi => ?_⟩
  · rw [exec_rdf_header hv h, zext64_eq_ofNat]
    rfl
  · rw [← selectorWord_rdf hhi]
    refine decodeWord_rdf_illegal ?_
    rw [BitVec.toNat_ofNat]
    omega

end Sys2Proof.Machine
end

section
/-! PROOF. The common part of the property commands (R160), and the properties that are a field register or simple
arithmetic on one (R161 to R164, R166 to R168, R170 to R172). -/

namespace Sys2Proof.Machine

/-! ### The common part -/

/-- A header query that finds a header gives its answer and changes nothing else (R160). -/
theorem headerQuery_answers {s : State} (hv : s.hv = true) (tag : Tag) (v : Value) :
    headerQuery tag v s = .next { s with responses := s.responses ++ [⟨.ok, tag, v⟩] } :=
  headerQuery_header tag v s hv

/-- The answer of a header query for a register's contents (R166 to R168, R170, R171). -/
theorem headerQuery_answers_word {s : State} (hv : s.hv = true) (tag : Tag) (w : Word) : headerQuery tag (zext64 w) s =
    .next { s with responses := s.responses ++ [⟨.ok, tag, BitVec.ofNat 64 w.toNat⟩] } := by
  rw [headerQuery_answers hv, zext64_eq_ofNat]

/-- The command word of a property command (R74). -/
theorem encode_property_selector {i : Instr} (hi : i ∈ propertyCommands) :
    ∃ sel, encode i = [selectorWord 0x6 sel] := by
  obtain ⟨k, hk, rfl⟩ := List.mem_iff_getElem.mp hi
  have hk11 : k < 11 := hk
  have hsel : (BitVec.ofNat 4 k).toNat = k := by
    rw [BitVec.toNat_ofNat]
    omega
  obtain ⟨-, he⟩ := encode_property (BitVec.ofNat 4 k) (by omega)
  simp only [hsel] at he
  exact ⟨_, he⟩

/-- The command is the header query whose answer is a function of `F` and `HNW` (R160). -/
def AnswersFrom (i : Instr) (answer : Vector Word 12 → BitVec 4 → Tag × Value) : Prop :=
  ∀ s : State, exec i s = headerQuery (answer s.f s.hnw).1 (answer s.f s.hnw).2 s

/-- The answer of every property command, and which of them read `HNW` (R160, R161 to R172). -/
theorem exists_answersFrom {i : Instr} (hi : i ∈ propertyCommands) :
    ∃ answer, AnswersFrom i answer ∧
      ∀ f hnw hnw', (i = .plb ∨ i = .nsmp → hnw = hnw') → answer f hnw = answer f hnw' := by
  simp only [propertyCommands, List.mem_cons, List.not_mem_nil, or_false] at hi
  rcases hi with rfl | rfl | rfl | rfl | rfl | rfl | rfl | rfl | rfl | rfl | rfl
  · exact ⟨fun f _ => (.uint, uint64 (bitsPerSample f)), fun _ => rfl, fun _ _ _ _ => rfl⟩
  · exact ⟨fun f _ => (.uint, uint64 (frameLengthBytes f)), fun _ => rfl, fun _ _ _ _ => rfl⟩
  · exact ⟨fun f hnw => (.sint, sint64 (payloadLengthBytes f hnw)), fun _ => rfl, fun _ _ _ h => by rw [h (.inl rfl)]⟩
  · exact ⟨fun f _ => (.uint, uint64 (numChannels f)), fun _ => rfl, fun _ _ _ _ => rfl⟩
  · exact ⟨fun f hnw => (.sint, sint64 (numSamples Config.negDiv f hnw)), fun _ => rfl,
      fun _ _ _ h => by rw [h (.inr rfl)]⟩
  · exact ⟨fun f _ => (stationTag f, zext64 f[8]), fun _ => rfl, fun _ _ _ _ => rfl⟩
  · exact ⟨fun f _ => (.uint, zext64 f[9]), fun _ => rfl, fun _ _ _ _ => rfl⟩
  · exact ⟨fun f _ => (.uint, zext64 f[7]), fun _ => rfl, fun _ _ _ _ => rfl⟩
  · exact ⟨fun f _ => (.bool, zext64 f[1]), fun _ => rfl, fun _ _ _ _ => rfl⟩
  · exact ⟨fun f _ => (.bool, zext64 f[11]), fun _ => rfl, fun _ _ _ _ => rfl⟩
  · exact ⟨fun f _ => (.bool, 1 - zext64 f[2]), fun _ => rfl, fun _ _ _ _ => rfl⟩

/-- Settles O33: a property command is a header query, and its answer is a function of what it reads. -/
theorem propertyCommandsCommonPart : Obligations.PropertyCommandsCommonPart := by
  intro i hi
  obtain ⟨answer, hexec, hreads⟩ := exists_answersFrom hi
  obtain ⟨sel, hsel⟩ := encode_property_selector hi
  refine ⟨⟨_, hsel, opField_selectorWord .., selectorWord_low ..⟩, fun s hv => ?_, fun s s' hv hv' hf hhnw => ?_⟩
  · rw [hexec, headerQuery_noHeader _ _ _ hv]
    rfl
  · have hanswer : answer s'.f s'.hnw = answer s.f s.hnw := hf ▸ (hreads s.f _ _ hhnw).symm
    refine ⟨⟨.ok, (answer s.f s.hnw).1, (answer s.f s.hnw).2⟩, rfl, ?_, ?_⟩
    · rw [hexec, headerQuery_answers hv]
    · rw [hexec, hanswer, headerQuery_answers hv']

/-! ### The field registers of a legal header -/

/-- In a legal header a field register is below two to the length of its table entry (R31). -/
theorem field_lt {s : State} (hl : s.HeaderLegal) (hv : s.hv = true) (k : Fin 12) {n : Nat}
    (hn : headerTable[k].bl.toNat = n) : s.f[k].toNat < 2 ^ n :=
  hn ▸ (hl hv).2 k

/-! ### The properties -/

/-- Settles O34: `F[10]` is of 5 bits. -/
theorem bpsMeaning : Obligations.BpsMeaning := by
  refine ⟨by decide, fun s hv => ⟨headerQuery_answers hv _ _, fun hl => ?_⟩⟩
  have h10 : s.f[10].toNat < 2 ^ 5 := field_lt hl hv 10 rfl
  omega

/-- Settles O35: `F[5]` is of 24 bits. -/
theorem flbMeaning : Obligations.FlbMeaning := by
  refine ⟨by decide, fun s hv => ⟨headerQuery_answers hv _ _, fun hl => ?_⟩⟩
  have h5 : s.f[5].toNat < 2 ^ 24 := field_lt hl hv 5 rfl
  omega

/-- `sint_64` is exact on the integers of 64-bit two's complement (R8). -/
theorem sint64_toInt {z : Int} (hlo : -2 ^ 63 ≤ z) (hhi : z < 2 ^ 63) : (sint64 z).toInt = z :=
  BitVec.toInt_ofInt_eq_self (by decide) hlo hhi

/-- Whatever the registers hold, the payload's length is an integer of 64-bit two's complement (R163). -/
theorem sint64_payloadLengthBytes_toInt (f : Vector Word 12) (hnw : BitVec 4) :
    (sint64 (payloadLengthBytes f hnw)).toInt = (f[5].toNat : Int) * 8 - (hnw.toNat : Int) * 4 := by
  have h5 : f[5].toNat < 2 ^ 32 := f[5].isLt
  apply sint64_toInt <;> rw [payloadLengthBytes] <;> omega

/-- Settles O36: PLB's answer is exact, and `F[5]` is of 24 bits. -/
theorem plbMeaning : Obligations.PlbMeaning := by
  refine ⟨by decide, fun s hv => ⟨_, headerQuery_answers hv _ _, ?_⟩⟩
  rw [sint64_payloadLengthBytes_toInt]
  refine ⟨rfl, by omega, by omega, fun hl => ?_⟩
  obtain ⟨⟨hlo, hhi⟩, -⟩ := hl hv
  have h5 : s.f[5].toNat < 2 ^ 24 := field_lt hl hv 5 rfl
  omega

/-- Settles O37: `F[6]` is of 5 bits, so the power fits the answer. -/
theorem nchMeaning : Obligations.NchMeaning := by
  refine ⟨by decide, fun s hv hl => ⟨_, headerQuery_answers hv _ _, ?_⟩⟩
  have h6 : s.f[6].toNat < 2 ^ 5 := field_lt hl hv 6 rfl
  have hpos : 0 < 2 ^ s.f[6].toNat := Nat.two_pow_pos _
  have hmax : 2 ^ s.f[6].toNat ≤ 2 ^ 31 := Nat.pow_le_pow_right (by decide) (by omega)
  have hval : (uint64 (numChannels s.f)).toNat = 2 ^ s.f[6].toNat := by
    rw [uint64, numChannels, BitVec.toNat_ofNat]
    omega
  exact ⟨hval, by omega, by omega⟩

/-- The byte that STID tests, as a quotient's remainder (R166). -/
theorem stationTag_eq (f : Vector Word 12) : stationTag f =
    if 48 ≤ f[8].toNat / 256 % 256 ∧ f[8].toNat / 256 % 256 ≤ 128 then .str2 else .uint := by
  have hbyte : (f[8].extractLsb' 8 8).toNat = f[8].toNat / 256 % 256 := by
    rw [BitVec.extractLsb'_toNat, Nat.shiftRight_eq_div_pow]
  rw [stationTag, hbyte]

/-- STID with a header (R166). -/
theorem exec_stid_header {s : State} (hv : s.hv = true) : exec .stid s =
    .next { s with responses := s.responses ++ [⟨.ok, stationTag s.f, BitVec.ofNat 64 s.f[8].toNat⟩] } :=
  headerQuery_answers_word hv _ _

/-- Settles O40: the byte decides the tag, and the value is the register's. -/
theorem stidMeaning : Obligations.StidMeaning := by
  refine ⟨by decide, fun s hv => ⟨fun hin => ?_, fun hout => ?_⟩⟩
  · rw [exec_stid_header hv, stationTag_eq, if_pos hin]
  · rw [exec_stid_header hv, stationTag_eq, if_neg (by omega)]

/-- Settles O41: THID and VER are the queries that RDF makes of `F[9]` and `F[7]`, of 10 and 3 bits. -/
theorem thidAndVerMeaning : Obligations.ThidAndVerMeaning := by
  refine ⟨by decide, by decide, fun s hv =>
    ⟨headerQuery_answers_word hv _ _, rfl, headerQuery_answers_word hv _ _, rfl, fun hl => ?_⟩⟩
  have h9 : s.f[9].toNat < 2 ^ 10 := field_lt hl hv 9 rfl
  have h7 : s.f[7].toNat < 2 ^ 3 := field_lt hl hv 7 rfl
  omega

/-- ISVAL inverts a bit (R172). -/
theorem one_sub_zext64_eq {w : Word} (h : w = 0 ∨ w = 1) :
    1 - zext64 w = BitVec.ofNat 64 (if w.toNat = 0 then 1 else 0) := by
  rcases h with rfl | rfl <;> decide

/-- Settles O42: the flags are registers of one bit. -/
theorem flagPropertiesMeaning : Obligations.FlagPropertiesMeaning := by
  refine ⟨by decide, by decide, by decide, fun s hv hl => ?_⟩
  have h1 : s.f[1].toNat < 2 ^ 1 := field_lt hl hv 1 rfl
  have h11 : s.f[11].toNat < 2 ^ 1 := field_lt hl hv 11 rfl
  have h2 : s.f[2].toNat < 2 ^ 1 := field_lt hl hv 2 rfl
  have hbit : s.f[2] = 0 ∨ s.f[2] = 1 := flag_field_bit hl hv 2 rfl
  refine ⟨headerQuery_answers_word hv _ _, headerQuery_answers_word hv _ _, ?_, by omega, by omega, by omega⟩
  rw [← one_sub_zext64_eq hbit]
  exact headerQuery_answers hv _ _

end Sys2Proof.Machine
end

section
/-! PROOF. The number of samples (R165) and its rounding (R169). -/

namespace Sys2Proof.Machine

/-! ### `sdiv` -/

theorem sdiv_of_nonneg (negDiv : NegDiv) {a : Int} (ha : 0 ≤ a) (b : Nat) : sdiv negDiv a b = a / b := by
  have hquot : sdiv negDiv a b = ((a.toNat / b : Nat) : Int) := if_pos ha
  rw [hquot, Int.natCast_ediv, Int.toNat_of_nonneg ha]

theorem sdiv_trunc_of_neg {a : Int} (ha : a < 0) (b : Nat) : sdiv .trunc a b = -(((-a).toNat / b : Nat) : Int) :=
  if_neg (not_le.mpr ha)

theorem sdiv_floor_of_neg {a : Int} (ha : a < 0) (b : Nat) :
    sdiv .floor a b = -((((-a).toNat + b - 1) / b : Nat) : Int) :=
  if_neg (not_le.mpr ha)

theorem sdiv_trunc (a : Int) (b : Nat) : sdiv .trunc a b = a.tdiv b := by
  rcases lt_or_ge a 0 with ha | ha
  · have hneg : (((-a).toNat : Nat) : Int) = -a := Int.toNat_of_nonneg (by omega)
    rw [sdiv_trunc_of_neg ha, Int.ofNat_tdiv, hneg, Int.neg_tdiv, Int.neg_neg]
  · rw [sdiv_of_nonneg _ ha, Int.tdiv_eq_ediv_of_nonneg ha]

/-- The quotient rounded up, of the negated dividend, is the negated quotient rounded down. -/
theorem neg_ceil_eq_ediv (m : Nat) {b : Nat} (hb : 1 ≤ b) : -(((m + b - 1) / b : Nat) : Int) = -(m : Int) / b := by
  have hquot : b * ((m + b - 1) / b) + (m + b - 1) % b = m + b - 1 := Nat.div_add_mod _ _
  have hrem : (m + b - 1) % b < b := Nat.mod_lt _ hb
  generalize (m + b - 1) / b = k at hquot
  generalize (m + b - 1) % b = r at hquot hrem
  have hsum : (b : Int) * k + r + 1 = m + b := by
    exact_mod_cast (by omega : b * k + r + 1 = m + b)
  symm
  rw [Int.ediv_eq_iff_of_pos (by omega)]
  constructor <;> linarith

theorem sdiv_floor (a : Int) {b : Nat} (hb : 1 ≤ b) : sdiv .floor a b = a.fdiv b := by
  rw [Int.fdiv_eq_ediv_of_nonneg a (Int.natCast_nonneg b)]
  rcases lt_or_ge a 0 with ha | ha
  · have hneg : (((-a).toNat : Nat) : Int) = -a := Int.toNat_of_nonneg (by omega)
    rw [sdiv_floor_of_neg ha, neg_ceil_eq_ediv _ hb, hneg, Int.neg_neg]
  · exact sdiv_of_nonneg _ ha b

/-- Settles O39: by the sign of the dividend for each rounding; where the division is exact both are the quotient. -/
theorem negDivRounding : Obligations.NegDivRounding := by
  refine fun a b hb => ⟨sdiv_trunc a b, sdiv_floor a hb, ?_⟩
  rintro (ha | hdvd)
  · rw [sdiv_of_nonneg _ ha, sdiv_of_nonneg _ ha]
  · rw [sdiv_trunc, sdiv_floor a hb, Int.tdiv_eq_ediv_of_dvd hdvd, Int.fdiv_eq_ediv_of_dvd hdvd]

/-- Dividing takes a dividend no further from zero, whichever way it rounds. -/
theorem natAbs_sdiv_le (negDiv : NegDiv) (a : Int) {b : Nat} (hb : 1 ≤ b) : (sdiv negDiv a b).natAbs ≤ a.natAbs := by
  cases negDiv with
  | trunc => exact sdiv_trunc a b ▸ Int.natAbs_tdiv_le_natAbs a b
  | floor => exact sdiv_floor a hb ▸ Int.natAbs_fdiv_le_natAbs a b

/-- The range of a quotient whose dividend is not below `-lo` and not above `hi` (R165). -/
theorem sdiv_range (negDiv : NegDiv) {a : Int} {b lo hi : Nat} (hb : 1 ≤ b) (hlohi : lo ≤ hi) (hlo : -(lo : Int) ≤ a)
    (hhi : a ≤ hi) : -(lo : Int) ≤ sdiv negDiv a b ∧ sdiv negDiv a b ≤ hi := by
  have habs := natAbs_sdiv_le negDiv a hb
  rcases lt_or_ge a 0 with ha | ha
  · omega
  · have hnonneg : 0 ≤ sdiv negDiv a b := by
      rw [sdiv_of_nonneg _ ha]
      exact Int.ediv_nonneg ha (Int.natCast_nonneg b)
    omega

/-! ### The number of samples -/

/-- The values in a word, with the complex flag read as a number (R165). -/
theorem valuesPerWord_eq (f : Vector Word 12) :
    valuesPerWord f = 32 / (f[10].toNat + 1) / (if f[11].toNat = 1 then 2 else 1) := by
  have hflag : f[11] = 1 ↔ f[11].toNat = 1 := BitVec.toNat_inj.symm
  simp only [valuesPerWord, bitsPerSample, hflag]

theorem valuesPerWord_le (f : Vector Word 12) : valuesPerWord f ≤ 32 :=
  (Nat.div_le_self _ _).trans (Nat.div_le_self _ _)

/-- The payload's length in bytes is a multiple of 4, so the dividend is its length in words times the values in a word
(R163, R165). -/
theorem numSamples_eq (negDiv : NegDiv) (f : Vector Word 12) (hnw : BitVec 4) : numSamples negDiv f hnw =
    sdiv negDiv (((f[5].toNat : Int) * 2 - (hnw.toNat : Int)) * valuesPerWord f) (numChannels f) := by
  have hwords : payloadLengthBytes f hnw / (4 : Int) = (f[5].toNat : Int) * 2 - (hnw.toNat : Int) := by
    rw [payloadLengthBytes]
    omega
  rw [numSamples, hwords]

/-- The number of values in a payload of `q` words, negative or not (R165). -/
theorem values_range {q : Int} {vpw : Nat} (hlo : -8 ≤ q) (hhi : q ≤ 33554426) (hvpw : vpw ≤ 32) :
    -256 ≤ q * vpw ∧ q * vpw ≤ 1073741632 := by
  have hmullo : -8 * (vpw : Int) ≤ q * vpw := Int.mul_le_mul_of_nonneg_right hlo (Int.natCast_nonneg vpw)
  have hmulhi : q * vpw ≤ 33554426 * (vpw : Int) := Int.mul_le_mul_of_nonneg_right hhi (Int.natCast_nonneg vpw)
  omega

section
variable {s : State} (hl : s.HeaderLegal) (hv : s.hv = true)
include hl hv

/-- The length of the payload in words (R165). -/
theorem payloadWords_range : -8 ≤ (s.f[5].toNat : Int) * 2 - (s.hnw.toNat : Int) ∧
    (s.f[5].toNat : Int) * 2 - (s.hnw.toNat : Int) ≤ 33554426 := by
  obtain ⟨⟨hlo, hhi⟩, -⟩ := hl hv
  have h5 : s.f[5].toNat < 2 ^ 24 := field_lt hl hv 5 rfl
  omega

theorem numSamples_range (negDiv : NegDiv) :
    -256 ≤ numSamples negDiv s.f s.hnw ∧ numSamples negDiv s.f s.hnw ≤ 1073741632 := by
  obtain ⟨hqlo, hqhi⟩ := payloadWords_range hl hv
  obtain ⟨hlo, hhi⟩ := values_range hqlo hqhi (valuesPerWord_le s.f)
  rw [numSamples_eq]
  exact sdiv_range (lo := 256) (hi := 1073741632) negDiv Nat.one_le_two_pow (by decide) hlo hhi

/-- NSMP's answer is exact (R165). -/
theorem sint64_numSamples_toInt (negDiv : NegDiv) :
    (sint64 (numSamples negDiv s.f s.hnw)).toInt = numSamples negDiv s.f s.hnw := by
  obtain ⟨hlo, hhi⟩ := numSamples_range hl hv negDiv
  exact sint64_toInt (by omega) (by omega)

end

/-- Settles O38: NSMP's answer is the quotient, rounded as `NEG_DIV` says, and the fields' widths bound it. -/
theorem nsmpMeaning : Obligations.NsmpMeaning := by
  refine ⟨by decide, fun s hv hl => ?_⟩
  intro bps c vpw q nch
  have h10 : s.f[10].toNat < 2 ^ 5 := field_lt hl hv 10 rfl
  have hvpw : valuesPerWord s.f = vpw := valuesPerWord_eq s.f
  have hpos : 1 ≤ numChannels s.f := Nat.one_le_two_pow
  have hnch : ((numChannels s.f : Nat) : Int) = nch := Nat.cast_pow 2 _
  have hn : numSamples Config.negDiv s.f s.hnw = sdiv Config.negDiv (q * vpw) (numChannels s.f) := by
    rw [numSamples_eq, hvpw]
  refine ⟨_, headerQuery_answers hv _ _, ?_⟩
  rw [sint64_numSamples_toInt hl hv]
  refine ⟨fun htrunc => ?_, fun hfloor => ?_, fun hq => ?_, by omega, hvpw ▸ valuesPerWord_le s.f,
    payloadWords_range hl hv, by omega, numSamples_range hl hv _⟩
  · rw [hn, htrunc, sdiv_trunc, hnch]
  · rw [hn, hfloor, sdiv_floor _ hpos, hnch]
  · rw [hn, sdiv_of_nonneg _ (Int.mul_nonneg hq (Int.natCast_nonneg vpw)), hnch]

end Sys2Proof.Machine
end

section
/-! PROOF. Raising an exception (R210), and which exceptions each command can raise (R207). -/

namespace Sys2Proof.Machine

/-- R210 (c), one field at a time. -/
theorem clearValid_eq (who : RaisedBy) (s : State) : s.clearValid who = { s with
    pv := if who = .mkp then false else s.pv
    hv := if who = .hdr then false else s.hv } := by
  cases who <;> rfl

/-- R210 (b), one flag at a time. -/
theorem setSticky_eq (x : Exc) (s : State) : s.setSticky x = { s with
    ge := if x = .geometry then true else s.ge
    be := if x = .bounds then true else s.be
    ie := if x = .illegal then true else s.ie
    np := if x = .noParser then true else s.np
    nh := if x = .noHeader then true else s.nh } := by
  cases x <;> rfl

/-- Settles O45: raising clears a valid flag, sets a sticky flag and emits the response. -/
theorem raiseHasExactlyItsEffects : Obligations.RaiseHasExactlyItsEffects := by
  intro s who x
  rw [State.raise, setSticky_eq, clearValid_eq]
  rfl

/-- Settles O47: a command that completes answers `OK`, and one that raises answers with the status of an exception that
`exec_effect` finds among those the spec lists for it. -/
theorem commandsRaiseOnlyTheirExceptions : Obligations.CommandsRaiseOnlyTheirExceptions := by
  intro i s t hwf h
  cases exec_effect h with
  | load | parser | header | answer => exact ⟨_, rfl, .inl rfl⟩
  | raised who x _ _ hx => exact ⟨_, State.raise_responses who x s, .inr ⟨x, hx hwf, rfl⟩⟩

end Sys2Proof.Machine
end
